-- ==== Sys2Proof/Word.lean ====
section
/-! DEFINITION. The two widths of the core: bytes (registers, memory cells) and words (PC, addresses).
00_scope.md R5, R6: every register and memory cell holds a bit pattern. -/

namespace Sys2Proof

/-- An 8-bit value (00_scope.md R6). -/
abbrev Byte := BitVec 8

/-- A 16-bit value: PC and every address (00_scope.md R6). -/
abbrev Word := BitVec 16

end Sys2Proof
end

