-- ==== Sys2Proof/Machine/Bits.lean ====
section
/-! DEFINITION. Bit fields, extensions and byte order (00_scope.md R6, 20_memory.md R55). -/

namespace Sys2Proof

/-- The word `{hi, lo}`: little-endian words have `lo` at the first address (20_memory.md R55, R57). -/
def joinBytes (hi lo : Byte) : Word := hi ++ lo

/-- `w[15:8]`. -/
def hiByte (w : Word) : Byte := w.extractLsb' 8 8

/-- `w[7:0]`. -/
def loByte (w : Word) : Byte := w.extractLsb' 0 8

/-- `zext_16(b)` (00_scope.md R6). -/
def zext16 (b : Byte) : Word := b.setWidth 16

/-- `sext_16(b)` (00_scope.md R6). -/
def sext16 (b : Byte) : Word := b.signExtend 16

end Sys2Proof
end

