-- ==== Sys2Proof/Config.lean ====
section
/-! DEFINITION. The OPEN parameters of 00_scope.md R5. Those that are not the memory are plain data, held in State so
that the step runs for every value of them (assumption log 2). Of the platform's memory (`Mem`, 20_memory.md R52) the
pair of operations of the device behind a hooked address is free: two constants without a body (assumption log 7).
The spec leaves no result of an instruction undefined, so there is no other free value. -/

namespace Sys2Proof

/-- 00_scope.md R5. -/
structure Config where
  /-- `HALT_ADDR`, the designated test-termination address (42_execution_engine.md R164). -/
  haltAddr : Option Word
  /-- `HAS_INTERRUPT_INPUTS` (42_execution_engine.md R166, 60_exceptions.md R306). -/
  hasInterruptInputs : Bool
  /-- `POWER_ON_A` (10_state.md R21). -/
  powerOnA : Byte
  /-- `POWER_ON_X` (10_state.md R22). -/
  powerOnX : Byte
  /-- `POWER_ON_Y` (10_state.md R23). -/
  powerOnY : Byte
  deriving DecidableEq, Repr

/-- The default of every parameter (00_scope.md R5). -/
def Config.defaults : Config :=
  { haltAddr := none, hasInterruptInputs := false, powerOnA := 0, powerOnX := 0, powerOnY := 0 }

/-- `readByte` of the device behind the hook table (20_memory.md R51, R52): its own state and the address give the byte
it answers and its state after the read. Nothing is known of it: 00_scope.md R4 (c). -/
opaque Config.deviceRead (device : Nat) (addr : Word) : Byte × Nat

/-- `writeByte` of the device behind the hook table (20_memory.md R51, R52): its own state, the address and the byte
give its state after the write. -/
opaque Config.deviceWrite (device : Nat) (addr : Word) (value : Byte) : Nat

end Sys2Proof
end

