-- ==== Sys2Proof/Machine/State.lean ====
section
/-! DEFINITION. The state of the core (10_state.md R20, R40 to R43) as plain data, its stops, and the state right
after power-on and the first `reset()`. -/

namespace Sys2Proof.Machine

/-- The seven stored flags (10_state.md R28 to R35). Bit 5 of the packed byte is not state (R31). -/
structure Flags where
  /-- negative (R28) -/
  n : Bool
  /-- overflow (R29) -/
  v : Bool
  /-- break: stored, written by no instruction (R30) -/
  b : Bool
  /-- decimal-mode: no arithmetic effect (R33) -/
  d : Bool
  /-- interrupt-disable (R32) -/
  i : Bool
  /-- zero (R34) -/
  z : Bool
  /-- carry (R35) -/
  c : Bool
  deriving DecidableEq, Repr

/-- One sample of the two interrupt input lines, true = asserted (60_exceptions.md R306). -/
structure Lines where
  irq : Bool
  nmi : Bool
  deriving DecidableEq, Repr

/-- One `readByte` or `writeByte` call of the core with the byte moved (20_memory.md R51). -/
inductive Access where
  | read (addr : Word) (value : Byte)
  | write (addr : Word) (value : Byte)
  deriving DecidableEq, Repr

/-- The names of the conditions E1 to E3 of 60_exceptions.md R300, reported with `halted` (assumption log 4). -/
inductive HaltCause where
  /-- E1 (42_execution_engine.md R165) -/
  | undecodableOpcode
  /-- E2 (42_execution_engine.md R164) -/
  | haltAddressReached
  /-- E3 (42_execution_engine.md R175) -/
  | nullProgramCounter
  deriving DecidableEq, Repr

/-- What `step()` returns (42_execution_engine.md R160, R169). -/
inductive StepResult where
  | ran (cycles : Nat)
  | noOpThisTick
  | halted (cause : Option HaltCause)
  deriving DecidableEq, Repr

/-- The byte array as (address, byte) pairs in the canonical form `Memory.wf` of Ops.lean: addresses rising and below
65536, no byte equal to what an unlisted address reads as (20_memory.md R50; assumption log 1). -/
abbrev Memory := List Host.Cell

/-- An entry of the hook table: the accesses to the addresses from `lo` to `hi`, both included, are redirected to the
device (20_memory.md R52). -/
structure Hook where
  lo : Word
  hi : Word
  deriving DecidableEq, Repr

/-- What is behind the memory interface (`Mem`, 00_scope.md R5; 20_memory.md R52): "a 64KB mutable byte array plus a
hook table that redirects reads/writes in specific ranges ... to an external device". Without a hook it is flat RAM, the
default; with the whole space hooked it is any pair of operations with a state of its own (assumption log 7). -/
structure Platform where
  /-- the 64KB byte array -/
  ram : Memory
  /-- the hook table, never written by the core -/
  hooks : List Hook
  /-- the device's own state, coded as a number; only the device's two operations read it or give the next one -/
  device : Nat
  deriving DecidableEq, Repr

/-- The default platform: flat RAM (20_memory.md R52, 92_eei_decisions.md D14). -/
def Platform.flat (ram : Memory) : Platform := { ram := ram, hooks := [], device := 0 }

/-- The state of the core, its memory, its parameters, and what its latest call did. -/
structure State where
  /-- accumulator (R21) -/
  a : Byte
  /-- index register X (R22) -/
  x : Byte
  /-- index register Y (R23) -/
  y : Byte
  /-- stack pointer, low byte of a page-1 address (R24) -/
  sp : Byte
  /-- program counter (R27) -/
  pc : Word
  /-- the stored flags (R28 to R35) -/
  flags : Flags
  /-- `PendingCycles` (R40) -/
  pendingCycles : Nat
  /-- the `Halted` bit of `Engine` (R41) -/
  halted : Bool
  /-- whether a `reset()` has been made (42_execution_engine.md R175; assumption log 11) -/
  started : Bool
  /-- `NmiLatch` (60_exceptions.md R306) -/
  nmiLatch : Bool
  /-- `NmiPrev` (60_exceptions.md R306) -/
  nmiPrev : Bool
  /-- what is behind the memory interface (20_memory.md R52) -/
  mem : Platform
  /-- the parameters, never written by a step (00_scope.md R5; assumption log 2) -/
  cfg : Config
  /-- the model's own: the samples of the input lines at the calls of `step()` to come (assumption log 3) -/
  inputs : List Lines
  /-- the model's own: the accesses of the latest call, oldest first (20_memory.md R62; assumption log 5) -/
  bus : List Access
  /-- the model's own: what the latest `step()` returned, none before the first (R169; assumption log 5) -/
  result : Option StepResult
  deriving DecidableEq, Repr

/-- A step never stops with a fault: "`step()` is a total function ... it has no failing case" (60_exceptions.md
R305), no memory access faults (20_memory.md R70) and no instruction raises anything (R300). So there is no fault. -/
inductive Fault where
  deriving DecidableEq, Repr

/-- Why exec has no answer. -/
inductive Refusal where
  /-- Raised by an arm of exec whose instruction has no meaning yet; safe: the machine stops. No arm raises it. -/
  | notModelled (mnemonic : String)
  deriving DecidableEq, Repr

/-- The flags after `reset()`: packed 0x24 (10_state.md R43, 70_reset_and_hazards.md R331). -/
def Flags.afterReset : Flags :=
  { n := false, v := false, b := false, d := false, i := true, z := false, c := false }

/-- The state after power-on with the default parameters, flat RAM included, and no program in memory, followed by `reset()`
(10_state.md R43; PC is the word at 0xFFFC, which reads 0x0000, R336). -/
def State.reset : State :=
  { a := 0, x := 0, y := 0, sp := 0xFD, pc := 0x0000, flags := Flags.afterReset,
    pendingCycles := 0, halted := false, started := true, nmiLatch := false, nmiPrev := false,
    mem := Platform.flat [], cfg := Config.defaults, inputs := [],
    bus := [.read 0xFFFC 0, .read 0xFFFD 0], result := none }

end Sys2Proof.Machine
end

