-- ==== Sys2Proof/Machine/Ops.lean ====
section
/-! DEFINITION. The named operations: the byte array, the platform, the bus, the word reads, the register updates, the status byte,
the stack, trap entry and return, and `reset()`. -/

namespace Sys2Proof.Machine

/-! ### The byte array (20_memory.md R50 to R52) -/

/-- What an address with no listed byte reads as: RAM of zeros (assumption log 1). -/
def Memory.unlisted : Byte := 0

/-- The byte the array holds at an address. -/
def Memory.read : Memory → Nat → Byte
  | [], _ => Memory.unlisted
  | (k, w) :: m, a => if a = k then w else Memory.read m a

/-- The array with one byte replaced; it keeps the canonical form. -/
def Memory.write : Memory → Nat → Byte → Memory
  | [], a, v => if v = Memory.unlisted then [] else [(a, v)]
  | (k, w) :: m, a, v =>
    if a < k then if v = Memory.unlisted then (k, w) :: m else (a, v) :: (k, w) :: m
    else if a = k then if v = Memory.unlisted then m else (a, v) :: m
    else (k, w) :: Memory.write m a v

/-- The canonical form: addresses strictly rising and below 65536, no byte equal to the unlisted one. -/
def Memory.wf : Memory → Bool
  | [] => true
  | (k, w) :: m => decide (k < 0x10000) && (w != Memory.unlisted) && m.all (fun c => decide (k < c.1)) && Memory.wf m

/-! ### The platform behind the memory interface (20_memory.md R51, R52) -/

/-- The hook covers the address. -/
def Hook.covers (h : Hook) (addr : Word) : Bool := decide (h.lo ≤ addr) && decide (addr ≤ h.hi)

/-- The hook table redirects the address to the device. -/
def Platform.hooked (m : Platform) (addr : Word) : Bool := m.hooks.any (fun h => h.covers addr)

/-- `readByte(address)`: the byte, and the platform after the read. A device may change its own state when it is read
(20_memory.md R62); RAM does not. -/
def Platform.read (m : Platform) (addr : Word) : Byte × Platform :=
  if m.hooked addr then
    let (v, d) := Config.deviceRead m.device addr
    (v, { m with device := d })
  else (m.ram.read addr.toNat, m)

/-- `writeByte(address, value)`: the platform after the write. -/
def Platform.write (m : Platform) (addr : Word) (v : Byte) : Platform :=
  if m.hooked addr then { m with device := Config.deviceWrite m.device addr v }
  else { m with ram := m.ram.write addr.toNat v }

namespace State

/-! ### Register updates, one home for each write -/

/-- `A <- v`. -/
def setA (s : State) (v : Byte) : State := { s with a := v }

/-- `X <- v`. -/
def setX (s : State) (v : Byte) : State := { s with x := v }

/-- `Y <- v`. -/
def setY (s : State) (v : Byte) : State := { s with y := v }

/-- `SP <- v`. -/
def setSP (s : State) (v : Byte) : State := { s with sp := v }

/-- `PC <- target`. -/
def setPC (s : State) (target : Word) : State := { s with pc := target }

/-- Write all seven stored flags. -/
def setFlags (s : State) (f : Flags) : State := { s with flags := f }

/-- Replace the platform. -/
def setMem (s : State) (m : Platform) : State := { s with mem := m }

/-- Note accesses of the current call, in order (20_memory.md R62, R63). -/
def note (s : State) (accs : List Access) : State := { s with bus := s.bus ++ accs }

/-- `PC <- trunc16(PC + len)`, the end of an instruction that does not transfer control
(42_execution_engine.md R167). -/
def advance (s : State) (len : Nat) : State := s.setPC (s.pc + BitVec.ofNat 16 len)

/-! ### The bus (20_memory.md R51, R61, R62) -/

/-- `MemRead(a, 1)`: the byte, and the state with the access noted. -/
def busRead (s : State) (addr : Word) : Byte × State :=
  let (v, m) := s.mem.read addr
  (v, (s.setMem m).note [.read addr v])

/-- `MemWrite(a, 1, v)`. -/
def busWrite (s : State) (addr : Word) (v : Byte) : State :=
  (s.setMem (s.mem.write addr v)).note [.write addr v]

/-- `Read16(a)` (20_memory.md R57). -/
def read16 (s : State) (addr : Word) : Word × State :=
  let (lo, s) := s.busRead addr
  let (hi, s) := s.busRead (addr + 1)
  (joinBytes hi lo, s)

/-- `Read16ZP(z)`: the second byte wraps inside the zero page (20_memory.md R58). -/
def read16ZP (s : State) (z : Byte) : Word × State :=
  let (lo, s) := s.busRead (zext16 z)
  let (hi, s) := s.busRead (zext16 (z + 1))
  (joinBytes hi lo, s)

/-- `Read16Bug(a)`: the second byte wraps inside the page of `a` (20_memory.md R59). -/
def read16Bug (s : State) (addr : Word) : Word × State :=
  let (lo, s) := s.busRead addr
  let (hi, s) := s.busRead (joinBytes (hiByte addr) (loByte addr + 1))
  (joinBytes hi lo, s)

/-! ### The stack engine (47_stack_flags_system.md R258, R259) -/

/-- The address `0x0100 + SP`, always in page 1 (10_state.md R24). -/
def stackAddr (sp : Byte) : Word := 0x0100 + zext16 sp

/-- `Push(v)` (R258). -/
def push (s : State) (v : Byte) : State := (s.busWrite (stackAddr s.sp) v).setSP (s.sp - 1)

/-- `Pull()` (R259): the byte read at the incremented SP, which stays in memory. -/
def pull (s : State) : Byte × State := (s.setSP (s.sp + 1)).busRead (stackAddr (s.sp + 1))

end State

/-! ### The status register P (10_state.md R36 to R38) -/

/-- `Pack() = {N, V, 1, B, D, I, Z, C}` (R36). -/
def Flags.pack (f : Flags) : Byte :=
  BitVec.ofBool f.n ++ BitVec.ofBool f.v ++ 1#1 ++ BitVec.ofBool f.b ++
    BitVec.ofBool f.d ++ BitVec.ofBool f.i ++ BitVec.ofBool f.z ++ BitVec.ofBool f.c

/-- `Unpack(b)`, all seven flags from the byte (R37); the driver's codec, called by no instruction. -/
def Flags.unpack (p : Byte) : Flags :=
  { n := p.getLsbD 7, v := p.getLsbD 6, b := p.getLsbD 4, d := p.getLsbD 3,
    i := p.getLsbD 2, z := p.getLsbD 1, c := p.getLsbD 0 }

/-- `UnpackPulled(b)`: B is kept and bit 5 is ignored (R38). -/
def Flags.unpackPulled (f : Flags) (p : Byte) : Flags := { Flags.unpack p with b := f.b }

namespace State

/-- `P`, the packed status register (10_state.md R36, R39). -/
def p (s : State) : Byte := s.flags.pack

/-! ### Taking a trap and returning from it -/

/-- Trap entry, shared by BRK (47_stack_flags_system.md R272) and the interrupt inputs (60_exceptions.md R308):
push the return address, high byte first, push the given status byte, set I, load PC from the vector. -/
def enterTrap (s : State) (returnAddr : Word) (status : Byte) (vector : Word) : State :=
  let s := s.push (hiByte returnAddr)
  let s := s.push (loByte returnAddr)
  let s := s.push status
  let s := s.setFlags { s.flags with i := true }
  let (target, s) := s.read16 vector
  s.setPC target

/-- The return from a trap (47_stack_flags_system.md R273, 60_exceptions.md R312): pull P through `UnpackPulled`,
then PC low, then PC high, with no increment. -/
def returnFromTrap (s : State) : State :=
  let (status, s) := s.pull
  let s := s.setFlags (s.flags.unpackPulled status)
  let (lo, s) := s.pull
  let (hi, s) := s.pull
  s.setPC (joinBytes hi lo)

/-- The status byte BRK and PHP push: bits 4 and 5 forced to 1 (47_stack_flags_system.md R261, R272). -/
def statusForBreak (s : State) : Byte := s.p ||| 0x30

/-- The status byte an interrupt pushes: bit 4 clear, bit 5 set (60_exceptions.md R308). -/
def statusForInterrupt (s : State) : Byte := (s.p &&& 0xEF) ||| 0x20

/-! ### Power-on and reset (70_reset_and_hazards.md R330 to R335) -/

/-- The state before the first `reset()`, which the spec leaves unmodelled (42_execution_engine.md R175): the power-on
A, X and Y (10_state.md R43) and the platform with the memory it established (20_memory.md R72). DESIGN CHOICE
(assumption log 11): SP, PC, the seven flags and `PendingCycles` hold 0 until `reset()` writes them, the `Halted` bit is
false, so that `engine` answers Idle-fetch, and `NmiLatch` and `NmiPrev` are false. -/
def powerOn (cfg : Config) (mem : Platform) : State :=
  { a := cfg.powerOnA, x := cfg.powerOnX, y := cfg.powerOnY, sp := 0, pc := 0,
    flags := { n := false, v := false, b := false, d := false, i := false, z := false, c := false },
    pendingCycles := 0, halted := false, started := false, nmiLatch := false, nmiPrev := false,
    mem := mem, cfg := cfg, inputs := [], bus := [], result := none }

/-- `reset()` (70_reset_and_hazards.md R331); A, X, Y and memory are not written. -/
def resetCore (s : State) : State :=
  let (entry, s) := { s with bus := [] }.read16 0xFFFC
  { s with
    sp := 0xFD, flags := Flags.afterReset, pc := entry, pendingCycles := 0, halted := false, started := true,
    nmiLatch := if s.cfg.hasInterruptInputs then false else s.nmiLatch,
    nmiPrev := if s.cfg.hasInterruptInputs then false else s.nmiPrev,
    result := none }

end State

end Sys2Proof.Machine
end

