-- ==== Sys2Proof/Machine/Flags.lean ====
section
/-! DEFINITION. The pure ALU functions with the flags they compute (40_fixed_width_alu.md section 2). Arguments are
bytes read as unsigned numbers; the instruction applies the flags. -/

namespace Sys2Proof.Machine

/-- Result and flags of ADC and SBC. -/
structure ArithResult where
  r : Byte
  c : Bool
  v : Bool
  n : Bool
  z : Bool
  deriving DecidableEq, Repr

/-- Result and carry-out of a shift or rotate. -/
structure ShiftResult where
  r : Byte
  c : Bool
  deriving DecidableEq, Repr

/-- Flags of a compare. -/
structure CompareResult where
  c : Bool
  n : Bool
  z : Bool
  deriving DecidableEq, Repr

/-- Flags of BIT. -/
structure BitResult where
  z : Bool
  n : Bool
  v : Bool
  deriving DecidableEq, Repr

/-- `N' = r[7]` (R120). -/
def negOf (r : Byte) : Bool := r.getLsbD 7

/-- `Z' = (r = 0)` (R120). -/
def zeroOf (r : Byte) : Bool := r == 0

/-- `AluAdc(a, m, c)` (R121): binary whatever D holds. -/
def aluAdc (a m : Byte) (c : Bool) : ArithResult :=
  let sum : Nat := a.toNat + m.toNat + c.toNat
  let r : Byte := BitVec.ofNat 8 sum
  { r := r
    c := decide (sum > 0xFF)
    v := ((a ^^^ m) &&& 0x80) == 0 && ((a ^^^ r) &&& 0x80) != 0
    n := negOf r
    z := zeroOf r }

/-- `AluSbc(a, m, c)` (R122): carry means no borrow; binary whatever D holds. -/
def aluSbc (a m : Byte) (c : Bool) : ArithResult :=
  let borrow : Nat := 1 - c.toNat
  let diff : Int := (a.toNat : Int) - m.toNat - borrow
  let r : Byte := BitVec.ofInt 8 diff
  { r := r
    c := decide (a.toNat ≥ m.toNat + borrow)
    v := ((a ^^^ m) &&& 0x80) != 0 && ((a ^^^ r) &&& 0x80) != 0
    n := negOf r
    z := zeroOf r }

/-- `AluAsl(v)` (R123). -/
def aluAsl (v : Byte) : ShiftResult := { r := BitVec.ofNat 8 (v.toNat * 2), c := v.getLsbD 7 }

/-- `AluLsr(v)` (R124): logical, a zero enters bit 7 (90_conflicts.md C1). -/
def aluLsr (v : Byte) : ShiftResult := { r := BitVec.ofNat 8 (v.toNat / 2), c := v.getLsbD 0 }

/-- `AluRol(v, c)` (R125): the carry enters bit 0. -/
def aluRol (v : Byte) (c : Bool) : ShiftResult :=
  { r := BitVec.ofNat 8 (v.toNat * 2) ||| BitVec.ofNat 8 c.toNat, c := v.getLsbD 7 }

/-- `AluRor(v, c)` (R126): the carry enters bit 7. -/
def aluRor (v : Byte) (c : Bool) : ShiftResult :=
  { r := BitVec.ofNat 8 (v.toNat / 2) ||| BitVec.ofNat 8 (c.toNat * 128), c := v.getLsbD 0 }

/-- `AluCmp(reg, m)` (R127): no register is written and the incoming carry is not used. -/
def aluCmp (reg m : Byte) : CompareResult :=
  let d : Byte := BitVec.ofInt 8 ((reg.toNat : Int) - m.toNat)
  { c := decide (reg.toNat ≥ m.toNat), n := negOf d, z := zeroOf d }

/-- `AluBit(a, m)` (R128): N and V come from the memory operand, not from the AND. -/
def aluBit (a m : Byte) : BitResult := { z := zeroOf (a &&& m), n := m.getLsbD 7, v := m.getLsbD 6 }

/-- `AluAnd(a, m)` (R129). -/
def aluAnd (a m : Byte) : Byte := a &&& m

/-- `AluOra(a, m)` (R129). -/
def aluOra (a m : Byte) : Byte := a ||| m

/-- `AluEor(a, m)` (R129). -/
def aluEor (a m : Byte) : Byte := a ^^^ m

/-- `AluInc(v)` (R130). -/
def aluInc (v : Byte) : Byte := BitVec.ofNat 8 (v.toNat + 1)

/-- `AluDec(v)` (R130). -/
def aluDec (v : Byte) : Byte := BitVec.ofInt 8 ((v.toNat : Int) - 1)

namespace State

/-- `SetNZ(r)` (R120). -/
def setNZ (s : State) (r : Byte) : State := s.setFlags { s.flags with n := negOf r, z := zeroOf r }

/-- `C <- v`. -/
def setC (s : State) (v : Bool) : State := s.setFlags { s.flags with c := v }

/-- `A <- r; C <- C'; V <- V'; N <- N'; Z <- Z'` (44_arithmetic_logic.md R200, R201). -/
def applyArith (s : State) (o : ArithResult) : State :=
  (s.setA o.r).setFlags { s.flags with c := o.c, v := o.v, n := o.n, z := o.z }

/-- `C <- C'; N <- N'; Z <- Z'` (44_arithmetic_logic.md R206). -/
def applyCompare (s : State) (o : CompareResult) : State :=
  s.setFlags { s.flags with c := o.c, n := o.n, z := o.z }

/-- `Z <- Z'; N <- N'; V <- V'` (44_arithmetic_logic.md R205). -/
def applyBit (s : State) (o : BitResult) : State :=
  s.setFlags { s.flags with z := o.z, n := o.n, v := o.v }

end State

end Sys2Proof.Machine
end

