-- ==== Sys2Proof/Syntax.lean ====
section
/-! DEFINITION. The instructions as syntax (30_encoding.md section 2 and 3, opcode_table.json).
A row of opcode_table.json is one constructor of `Instr` together with one form of its operand: the 64 mnemonics
give 69 constructors, since JMP has an absolute and an indirect rule (R240, R241) and ASL, LSR, ROL and ROR have an
accumulator form without operand bytes. Sys2Proof/Decode.lean lists the 203 rows one by one. -/

namespace Sys2Proof

/-- The nine modes that give an instruction a data operand (30_encoding.md R83, rows 1 to 7, 9 and 10). -/
inductive DataMode where
  | imm | zp | zpx | zpy | abs | absx | absy | indx | indy
  deriving DecidableEq, Repr

/-- The thirteen modes of 30_encoding.md R83. -/
inductive Mode where
  | data (m : DataMode)
  | ind
  | rel
  | imp
  | acc
  deriving DecidableEq, Repr

/-- A data operand with its operand bytes assembled as 30_encoding.md R84 says. -/
inductive Operand where
  /-- `#$nn`: the byte is the operand itself. -/
  | imm (b1 : Byte)
  /-- `$nn`. -/
  | zp (b1 : Byte)
  /-- `$nn,X`. -/
  | zpx (b1 : Byte)
  /-- `$nn,Y`. -/
  | zpy (b1 : Byte)
  /-- `$nnnn`. -/
  | abs (base : Word)
  /-- `$nnnn,X`. -/
  | absx (base : Word)
  /-- `$nnnn,Y`. -/
  | absy (base : Word)
  /-- `($nn,X)`. -/
  | indx (b1 : Byte)
  /-- `($nn),Y`. -/
  | indy (b1 : Byte)
  deriving DecidableEq, Repr

/-- The instructions; the number after a constructor is its rule. -/
inductive Instr where
  -- Loads (43_load_store_transfer.md R180 to R182)
  | lda     (op : Operand)  -- R180
  | ldx     (op : Operand)  -- R181
  | ldy     (op : Operand)  -- R182
  -- Stores (R183 to R185)
  | sta     (op : Operand)  -- R183
  | stx     (op : Operand)  -- R184
  | sty     (op : Operand)  -- R185
  -- Register transfers (R186 to R191)
  | tax                     -- R186
  | tay                     -- R187
  | txa                     -- R188
  | tya                     -- R189
  | tsx                     -- R190
  | txs                     -- R191
  -- Arithmetic, logic, test and compare (44_arithmetic_logic.md R200 to R208)
  | adc     (op : Operand)  -- R200
  | sbc     (op : Operand)  -- R201
  | and     (op : Operand)  -- R202
  | ora     (op : Operand)  -- R203
  | eor     (op : Operand)  -- R204
  | bit     (op : Operand)  -- R205
  | cmp     (op : Operand)  -- R206
  | cpx     (op : Operand)  -- R207
  | cpy     (op : Operand)  -- R208
  -- Shifts and rotates, accumulator form and memory form (45_shift_incdec.md R220 to R223)
  | aslAcc                  -- R220
  | asl     (op : Operand)  -- R220
  | lsrAcc                  -- R221
  | lsr     (op : Operand)  -- R221
  | rolAcc                  -- R222
  | rol     (op : Operand)  -- R222
  | rorAcc                  -- R223
  | ror     (op : Operand)  -- R223
  -- Increments and decrements (R224 to R229)
  | inc     (op : Operand)  -- R224
  | dec     (op : Operand)  -- R225
  | inx                     -- R226
  | iny                     -- R227
  | dex                     -- R228
  | dey                     -- R229
  -- Jumps, call and return (46_control_flow.md R240 to R243)
  | jmp     (target : Word) -- R240
  | jmpInd  (ptr : Word)    -- R241
  | jsr     (target : Word) -- R242
  | rts                     -- R243
  -- Conditional branches (R244 to R252)
  | bcc     (off : Byte)    -- R244
  | bcs     (off : Byte)    -- R245
  | beq     (off : Byte)    -- R246
  | bne     (off : Byte)    -- R247
  | bmi     (off : Byte)    -- R248
  | bpl     (off : Byte)    -- R249
  | bvc     (off : Byte)    -- R250
  | bvs     (off : Byte)    -- R251
  -- Stack instructions (47_stack_flags_system.md R260 to R263)
  | pha                     -- R260
  | php                     -- R261
  | pla                     -- R262
  | plp                     -- R263
  -- Flag instructions and NOP (R264 to R271)
  | clc                     -- R264
  | sec                     -- R265
  | cli                     -- R266
  | sei                     -- R267
  | clv                     -- R268
  | cld                     -- R269
  | sed                     -- R270
  | nop                     -- R271
  -- Software interrupt and return (R272, R273)
  | brk                     -- R272
  | rti                     -- R273
  -- Composites (48_illegal_composites.md R280 to R287)
  | lax     (op : Operand)  -- R280
  | sax     (op : Operand)  -- R281
  | dcp     (op : Operand)  -- R282
  | isb     (op : Operand)  -- R283
  | slo     (op : Operand)  -- R284
  | rla     (op : Operand)  -- R285
  | sre     (op : Operand)  -- R286
  | rra     (op : Operand)  -- R287
  deriving DecidableEq, Repr

end Sys2Proof
end

