-- ==== Sys2Proof/WellFormed.lean ====
section
/-! DEFINITION. Which instructions opcode_table.json can express: an operand is one of the modes its mnemonic has
(41_addressing_modes.md R156). Every value of the operand bytes is legal (30_encoding.md R91). -/

namespace Sys2Proof

/-- The mode of a data operand (30_encoding.md R83). -/
def Operand.mode : Operand → DataMode
  | .imm _ => .imm
  | .zp _ => .zp
  | .zpx _ => .zpx
  | .zpy _ => .zpy
  | .abs _ => .abs
  | .absx _ => .absx
  | .absy _ => .absy
  | .indx _ => .indx
  | .indy _ => .indy

/-- The modes a mnemonic with a data operand has: the "Operands" line of its rule. -/
def Instr.dataModes : Instr → List DataMode
  | .lda _
  | .adc _
  | .sbc _
  | .and _
  | .ora _
  | .eor _
  | .cmp _ => [.imm, .zp, .zpx, .abs, .absx, .absy, .indx, .indy]  -- R180, R200 to R204, R206
  | .ldx _ => [.imm, .zp, .zpy, .abs, .absy]  -- R181
  | .ldy _ => [.imm, .zp, .zpx, .abs, .absx]  -- R182
  | .sta _ => [.zp, .zpx, .abs, .absx, .absy, .indx, .indy]  -- R183
  | .stx _ => [.zp, .zpy, .abs]  -- R184
  | .sty _ => [.zp, .zpx, .abs]  -- R185
  | .bit _ => [.zp, .abs]  -- R205
  | .cpx _
  | .cpy _ => [.imm, .zp, .abs]  -- R207, R208
  | .asl _
  | .lsr _
  | .rol _
  | .ror _
  | .inc _
  | .dec _ => [.zp, .zpx, .abs, .absx]  -- R220 to R225
  | .lax _ => [.zp, .zpy, .abs, .absy, .indx, .indy]  -- R280
  | .sax _ => [.zp, .zpy, .abs, .indx]  -- R281
  | .dcp _
  | .isb _
  | .slo _
  | .rla _
  | .sre _
  | .rra _ => [.zp, .zpx, .abs, .absx, .absy, .indx, .indy]  -- R282 to R287
  | .tax | .tay | .txa | .tya | .tsx | .txs | .aslAcc | .lsrAcc
  | .rolAcc | .rorAcc | .inx | .iny | .dex | .dey | .jmp _ | .jmpInd _
  | .jsr _ | .rts | .bcc _ | .bcs _ | .beq _ | .bne _ | .bmi _ | .bpl _
  | .bvc _ | .bvs _ | .pha | .php | .pla | .plp | .clc | .sec
  | .cli | .sei | .clv | .cld | .sed | .nop | .brk | .rti => []

/-- The data operand of an instruction that has one. -/
def Instr.operand? : Instr → Option Operand
  | .lda op | .ldx op | .ldy op | .sta op | .stx op | .sty op | .adc op | .sbc op
  | .and op | .ora op | .eor op | .bit op | .cmp op | .cpx op | .cpy op | .asl op
  | .lsr op | .rol op | .ror op | .inc op | .dec op | .lax op | .sax op | .dcp op
  | .isb op | .slo op | .rla op | .sre op | .rra op => some op
  | .tax | .tay | .txa | .tya | .tsx | .txs | .aslAcc | .lsrAcc
  | .rolAcc | .rorAcc | .inx | .iny | .dex | .dey | .jmp _ | .jmpInd _
  | .jsr _ | .rts | .bcc _ | .bcs _ | .beq _ | .bne _ | .bmi _ | .bpl _
  | .bvc _ | .bvs _ | .pha | .php | .pla | .plp | .clc | .sec
  | .cli | .sei | .clv | .cld | .sed | .nop | .brk | .rti => none

/-- The instruction is a row of opcode_table.json (R156). -/
def Instr.wellFormed (i : Instr) : Bool :=
  match i.operand? with
  | none => true
  | some op => i.dataModes.contains op.mode

end Sys2Proof
end

