-- ==== Sys2Proof/Decode.lean ====
section
/-! DEFINITION. The decoder and the encoder (30_encoding.md).
The decoder looks the opcode byte up in `opcodeTable`, the rows of opcode_table.json in the order of the matrix of R86.
The encoder is written from the tables by mnemonic of R87 and R88, so that the two are independent transcriptions. -/

namespace Sys2Proof

/-- Why bytes are no instruction. -/
inductive DecodeError where
  /-- There is no opcode byte. -/
  | noByte
  /-- One of the 53 byte values with no row (30_encoding.md R90). -/
  | undefinedOpcode (op : Byte)
  /-- The operand bytes of the opcode are missing (30_encoding.md R82). -/
  | truncated (op : Byte)
  deriving DecidableEq, Repr

/-- A data operand from its operand bytes (30_encoding.md R84); `b2` is read by the two-byte modes only. -/
def Operand.ofBytes (m : DataMode) (b1 b2 : Byte) : Operand :=
  match m with
  | .imm => .imm b1
  | .zp => .zp b1
  | .zpx => .zpx b1
  | .zpy => .zpy b1
  | .abs => .abs (joinBytes b2 b1)
  | .absx => .absx (joinBytes b2 b1)
  | .absy => .absy (joinBytes b2 b1)
  | .indx => .indx b1
  | .indy => .indy b1

/-- What a row makes of its operand bytes, by mode. -/
inductive RowForm where
  | implied (i : Instr)
  | acc (i : Instr)
  | rel (make : Byte → Instr)
  | abs (make : Word → Instr)
  | ind (make : Word → Instr)
  | data (m : DataMode) (make : Operand → Instr)

/-- A row of opcode_table.json. -/
structure Row where
  /-- `match`; the mask is 0xFF in every row. -/
  opcode : Byte
  /-- The mnemonic and the mode. -/
  form : RowForm
  /-- `cycles` (30_encoding.md R87, R88; 42_execution_engine.md R168). -/
  cycles : Nat
  /-- `illegal`: data for a tracer, never branched on (30_encoding.md R89). -/
  illegal : Bool

/-- The mode of a row (30_encoding.md R83). -/
def Row.mode (r : Row) : Mode :=
  match r.form with
  | .implied _ => .imp
  | .acc _ => .acc
  | .rel _ => .rel
  | .abs _ => .data .abs
  | .ind _ => .ind
  | .data m _ => .data m

/-- The instruction length in bytes, a function of the mode (30_encoding.md R82, R83). -/
def Mode.length : Mode → Nat
  | .imp | .acc => 1
  | .rel => 2
  | .ind => 3
  | .data .imm | .data .zp | .data .zpx | .data .zpy | .data .indx | .data .indy => 2
  | .data .abs | .data .absx | .data .absy => 3

/-- `length` of a row. -/
def Row.length (r : Row) : Nat := r.mode.length

/-- The instruction of a row with operand bytes `b1`, `b2`, assembled as 30_encoding.md R84 says. -/
def Row.instr (r : Row) (b1 b2 : Byte) : Instr :=
  match r.form with
  | .implied i => i
  | .acc i => i
  | .rel make => make b1
  | .abs make => make (joinBytes b2 b1)
  | .ind make => make (joinBytes b2 b1)
  | .data m make => make (Operand.ofBytes m b1 b2)

/-- Row 0x of the matrix of 30_encoding.md R86. -/
def opcodeRow0 : List Row := [
  ⟨0x00, .implied .brk, 7, false⟩,
  ⟨0x01, .data .indx .ora, 6, false⟩,
  ⟨0x03, .data .indx .slo, 8, true⟩,
  ⟨0x05, .data .zp .ora, 3, false⟩,
  ⟨0x06, .data .zp .asl, 5, false⟩,
  ⟨0x07, .data .zp .slo, 5, true⟩,
  ⟨0x08, .implied .php, 3, false⟩,
  ⟨0x09, .data .imm .ora, 2, false⟩,
  ⟨0x0A, .acc .aslAcc, 2, false⟩,
  ⟨0x0D, .data .abs .ora, 4, false⟩,
  ⟨0x0E, .data .abs .asl, 6, false⟩,
  ⟨0x0F, .data .abs .slo, 6, true⟩]

/-- Row 1x of the matrix of 30_encoding.md R86. -/
def opcodeRow1 : List Row := [
  ⟨0x10, .rel .bpl, 2, false⟩,
  ⟨0x11, .data .indy .ora, 5, false⟩,
  ⟨0x13, .data .indy .slo, 8, true⟩,
  ⟨0x15, .data .zpx .ora, 4, false⟩,
  ⟨0x16, .data .zpx .asl, 6, false⟩,
  ⟨0x17, .data .zpx .slo, 6, true⟩,
  ⟨0x18, .implied .clc, 2, false⟩,
  ⟨0x19, .data .absy .ora, 4, false⟩,
  ⟨0x1B, .data .absy .slo, 7, true⟩,
  ⟨0x1D, .data .absx .ora, 4, false⟩,
  ⟨0x1E, .data .absx .asl, 7, false⟩,
  ⟨0x1F, .data .absx .slo, 7, true⟩]

/-- Row 2x of the matrix of 30_encoding.md R86. -/
def opcodeRow2 : List Row := [
  ⟨0x20, .abs .jsr, 6, false⟩,
  ⟨0x21, .data .indx .and, 6, false⟩,
  ⟨0x23, .data .indx .rla, 8, true⟩,
  ⟨0x24, .data .zp .bit, 3, false⟩,
  ⟨0x25, .data .zp .and, 3, false⟩,
  ⟨0x26, .data .zp .rol, 5, false⟩,
  ⟨0x27, .data .zp .rla, 5, true⟩,
  ⟨0x28, .implied .plp, 4, false⟩,
  ⟨0x29, .data .imm .and, 2, false⟩,
  ⟨0x2A, .acc .rolAcc, 2, false⟩,
  ⟨0x2C, .data .abs .bit, 4, false⟩,
  ⟨0x2D, .data .abs .and, 4, false⟩,
  ⟨0x2E, .data .abs .rol, 6, false⟩,
  ⟨0x2F, .data .abs .rla, 6, true⟩]

/-- Row 3x of the matrix of 30_encoding.md R86. -/
def opcodeRow3 : List Row := [
  ⟨0x30, .rel .bmi, 2, false⟩,
  ⟨0x31, .data .indy .and, 5, false⟩,
  ⟨0x33, .data .indy .rla, 8, true⟩,
  ⟨0x35, .data .zpx .and, 4, false⟩,
  ⟨0x36, .data .zpx .rol, 6, false⟩,
  ⟨0x37, .data .zpx .rla, 6, true⟩,
  ⟨0x38, .implied .sec, 2, false⟩,
  ⟨0x39, .data .absy .and, 4, false⟩,
  ⟨0x3B, .data .absy .rla, 7, true⟩,
  ⟨0x3D, .data .absx .and, 4, false⟩,
  ⟨0x3E, .data .absx .rol, 7, false⟩,
  ⟨0x3F, .data .absx .rla, 7, true⟩]

/-- Row 4x of the matrix of 30_encoding.md R86. -/
def opcodeRow4 : List Row := [
  ⟨0x40, .implied .rti, 6, false⟩,
  ⟨0x41, .data .indx .eor, 6, false⟩,
  ⟨0x43, .data .indx .sre, 8, true⟩,
  ⟨0x45, .data .zp .eor, 3, false⟩,
  ⟨0x46, .data .zp .lsr, 5, false⟩,
  ⟨0x47, .data .zp .sre, 5, true⟩,
  ⟨0x48, .implied .pha, 3, false⟩,
  ⟨0x49, .data .imm .eor, 2, false⟩,
  ⟨0x4A, .acc .lsrAcc, 2, false⟩,
  ⟨0x4C, .abs .jmp, 3, false⟩,
  ⟨0x4D, .data .abs .eor, 4, false⟩,
  ⟨0x4E, .data .abs .lsr, 6, false⟩,
  ⟨0x4F, .data .abs .sre, 6, true⟩]

/-- Row 5x of the matrix of 30_encoding.md R86. -/
def opcodeRow5 : List Row := [
  ⟨0x50, .rel .bvc, 2, false⟩,
  ⟨0x51, .data .indy .eor, 5, false⟩,
  ⟨0x53, .data .indy .sre, 8, true⟩,
  ⟨0x55, .data .zpx .eor, 4, false⟩,
  ⟨0x56, .data .zpx .lsr, 6, false⟩,
  ⟨0x57, .data .zpx .sre, 6, true⟩,
  ⟨0x58, .implied .cli, 2, false⟩,
  ⟨0x59, .data .absy .eor, 4, false⟩,
  ⟨0x5B, .data .absy .sre, 7, true⟩,
  ⟨0x5D, .data .absx .eor, 4, false⟩,
  ⟨0x5E, .data .absx .lsr, 7, false⟩,
  ⟨0x5F, .data .absx .sre, 7, true⟩]

/-- Row 6x of the matrix of 30_encoding.md R86. -/
def opcodeRow6 : List Row := [
  ⟨0x60, .implied .rts, 6, false⟩,
  ⟨0x61, .data .indx .adc, 6, false⟩,
  ⟨0x63, .data .indx .rra, 8, true⟩,
  ⟨0x65, .data .zp .adc, 3, false⟩,
  ⟨0x66, .data .zp .ror, 5, false⟩,
  ⟨0x67, .data .zp .rra, 5, true⟩,
  ⟨0x68, .implied .pla, 4, false⟩,
  ⟨0x69, .data .imm .adc, 2, false⟩,
  ⟨0x6A, .acc .rorAcc, 2, false⟩,
  ⟨0x6C, .ind .jmpInd, 5, false⟩,
  ⟨0x6D, .data .abs .adc, 4, false⟩,
  ⟨0x6E, .data .abs .ror, 6, false⟩,
  ⟨0x6F, .data .abs .rra, 6, true⟩]

/-- Row 7x of the matrix of 30_encoding.md R86. -/
def opcodeRow7 : List Row := [
  ⟨0x70, .rel .bvs, 2, false⟩,
  ⟨0x71, .data .indy .adc, 5, false⟩,
  ⟨0x73, .data .indy .rra, 8, true⟩,
  ⟨0x75, .data .zpx .adc, 4, false⟩,
  ⟨0x76, .data .zpx .ror, 6, false⟩,
  ⟨0x77, .data .zpx .rra, 6, true⟩,
  ⟨0x78, .implied .sei, 2, false⟩,
  ⟨0x79, .data .absy .adc, 4, false⟩,
  ⟨0x7B, .data .absy .rra, 7, true⟩,
  ⟨0x7D, .data .absx .adc, 4, false⟩,
  ⟨0x7E, .data .absx .ror, 7, false⟩,
  ⟨0x7F, .data .absx .rra, 7, true⟩]

/-- Row 8x of the matrix of 30_encoding.md R86. -/
def opcodeRow8 : List Row := [
  ⟨0x81, .data .indx .sta, 6, false⟩,
  ⟨0x83, .data .indx .sax, 6, true⟩,
  ⟨0x84, .data .zp .sty, 3, false⟩,
  ⟨0x85, .data .zp .sta, 3, false⟩,
  ⟨0x86, .data .zp .stx, 3, false⟩,
  ⟨0x87, .data .zp .sax, 3, true⟩,
  ⟨0x88, .implied .dey, 2, false⟩,
  ⟨0x8A, .implied .txa, 2, false⟩,
  ⟨0x8C, .data .abs .sty, 4, false⟩,
  ⟨0x8D, .data .abs .sta, 4, false⟩,
  ⟨0x8E, .data .abs .stx, 4, false⟩,
  ⟨0x8F, .data .abs .sax, 4, true⟩]

/-- Row 9x of the matrix of 30_encoding.md R86. -/
def opcodeRow9 : List Row := [
  ⟨0x90, .rel .bcc, 2, false⟩,
  ⟨0x91, .data .indy .sta, 6, false⟩,
  ⟨0x94, .data .zpx .sty, 4, false⟩,
  ⟨0x95, .data .zpx .sta, 4, false⟩,
  ⟨0x96, .data .zpy .stx, 4, false⟩,
  ⟨0x97, .data .zpy .sax, 4, true⟩,
  ⟨0x98, .implied .tya, 2, false⟩,
  ⟨0x99, .data .absy .sta, 5, false⟩,
  ⟨0x9A, .implied .txs, 2, false⟩,
  ⟨0x9D, .data .absx .sta, 5, false⟩]

/-- Row Ax of the matrix of 30_encoding.md R86. -/
def opcodeRowA : List Row := [
  ⟨0xA0, .data .imm .ldy, 2, false⟩,
  ⟨0xA1, .data .indx .lda, 6, false⟩,
  ⟨0xA2, .data .imm .ldx, 2, false⟩,
  ⟨0xA3, .data .indx .lax, 6, true⟩,
  ⟨0xA4, .data .zp .ldy, 3, false⟩,
  ⟨0xA5, .data .zp .lda, 3, false⟩,
  ⟨0xA6, .data .zp .ldx, 3, false⟩,
  ⟨0xA7, .data .zp .lax, 3, true⟩,
  ⟨0xA8, .implied .tay, 2, false⟩,
  ⟨0xA9, .data .imm .lda, 2, false⟩,
  ⟨0xAA, .implied .tax, 2, false⟩,
  ⟨0xAC, .data .abs .ldy, 4, false⟩,
  ⟨0xAD, .data .abs .lda, 4, false⟩,
  ⟨0xAE, .data .abs .ldx, 4, false⟩,
  ⟨0xAF, .data .abs .lax, 4, true⟩]

/-- Row Bx of the matrix of 30_encoding.md R86. -/
def opcodeRowB : List Row := [
  ⟨0xB0, .rel .bcs, 2, false⟩,
  ⟨0xB1, .data .indy .lda, 5, false⟩,
  ⟨0xB3, .data .indy .lax, 5, true⟩,
  ⟨0xB4, .data .zpx .ldy, 4, false⟩,
  ⟨0xB5, .data .zpx .lda, 4, false⟩,
  ⟨0xB6, .data .zpy .ldx, 4, false⟩,
  ⟨0xB7, .data .zpy .lax, 4, true⟩,
  ⟨0xB8, .implied .clv, 2, false⟩,
  ⟨0xB9, .data .absy .lda, 4, false⟩,
  ⟨0xBA, .implied .tsx, 2, false⟩,
  ⟨0xBC, .data .absx .ldy, 4, false⟩,
  ⟨0xBD, .data .absx .lda, 4, false⟩,
  ⟨0xBE, .data .absy .ldx, 4, false⟩,
  ⟨0xBF, .data .absy .lax, 4, true⟩]

/-- Row Cx of the matrix of 30_encoding.md R86. -/
def opcodeRowC : List Row := [
  ⟨0xC0, .data .imm .cpy, 2, false⟩,
  ⟨0xC1, .data .indx .cmp, 6, false⟩,
  ⟨0xC3, .data .indx .dcp, 8, true⟩,
  ⟨0xC4, .data .zp .cpy, 3, false⟩,
  ⟨0xC5, .data .zp .cmp, 3, false⟩,
  ⟨0xC6, .data .zp .dec, 5, false⟩,
  ⟨0xC7, .data .zp .dcp, 5, true⟩,
  ⟨0xC8, .implied .iny, 2, false⟩,
  ⟨0xC9, .data .imm .cmp, 2, false⟩,
  ⟨0xCA, .implied .dex, 2, false⟩,
  ⟨0xCC, .data .abs .cpy, 4, false⟩,
  ⟨0xCD, .data .abs .cmp, 4, false⟩,
  ⟨0xCE, .data .abs .dec, 6, false⟩,
  ⟨0xCF, .data .abs .dcp, 6, true⟩]

/-- Row Dx of the matrix of 30_encoding.md R86. -/
def opcodeRowD : List Row := [
  ⟨0xD0, .rel .bne, 2, false⟩,
  ⟨0xD1, .data .indy .cmp, 5, false⟩,
  ⟨0xD3, .data .indy .dcp, 8, true⟩,
  ⟨0xD5, .data .zpx .cmp, 4, false⟩,
  ⟨0xD6, .data .zpx .dec, 6, false⟩,
  ⟨0xD7, .data .zpx .dcp, 6, true⟩,
  ⟨0xD8, .implied .cld, 2, false⟩,
  ⟨0xD9, .data .absy .cmp, 4, false⟩,
  ⟨0xDB, .data .absy .dcp, 7, true⟩,
  ⟨0xDD, .data .absx .cmp, 4, false⟩,
  ⟨0xDE, .data .absx .dec, 7, false⟩,
  ⟨0xDF, .data .absx .dcp, 7, true⟩]

/-- Row Ex of the matrix of 30_encoding.md R86. -/
def opcodeRowE : List Row := [
  ⟨0xE0, .data .imm .cpx, 2, false⟩,
  ⟨0xE1, .data .indx .sbc, 6, false⟩,
  ⟨0xE3, .data .indx .isb, 8, true⟩,
  ⟨0xE4, .data .zp .cpx, 3, false⟩,
  ⟨0xE5, .data .zp .sbc, 3, false⟩,
  ⟨0xE6, .data .zp .inc, 5, false⟩,
  ⟨0xE7, .data .zp .isb, 5, true⟩,
  ⟨0xE8, .implied .inx, 2, false⟩,
  ⟨0xE9, .data .imm .sbc, 2, false⟩,
  ⟨0xEA, .implied .nop, 2, false⟩,
  ⟨0xEC, .data .abs .cpx, 4, false⟩,
  ⟨0xED, .data .abs .sbc, 4, false⟩,
  ⟨0xEE, .data .abs .inc, 6, false⟩,
  ⟨0xEF, .data .abs .isb, 6, true⟩]

/-- Row Fx of the matrix of 30_encoding.md R86. -/
def opcodeRowF : List Row := [
  ⟨0xF0, .rel .beq, 2, false⟩,
  ⟨0xF1, .data .indy .sbc, 5, false⟩,
  ⟨0xF3, .data .indy .isb, 8, true⟩,
  ⟨0xF5, .data .zpx .sbc, 4, false⟩,
  ⟨0xF6, .data .zpx .inc, 6, false⟩,
  ⟨0xF7, .data .zpx .isb, 6, true⟩,
  ⟨0xF8, .implied .sed, 2, false⟩,
  ⟨0xF9, .data .absy .sbc, 4, false⟩,
  ⟨0xFB, .data .absy .isb, 7, true⟩,
  ⟨0xFD, .data .absx .sbc, 4, false⟩,
  ⟨0xFE, .data .absx .inc, 7, false⟩,
  ⟨0xFF, .data .absx .isb, 7, true⟩]

/-- The 203 populated opcodes (30_encoding.md R85, R86; opcode_table.json). -/
def opcodeTable : List Row :=
  opcodeRow0 ++ opcodeRow1 ++ opcodeRow2 ++ opcodeRow3 ++ opcodeRow4 ++ opcodeRow5 ++ opcodeRow6 ++ opcodeRow7 ++
  opcodeRow8 ++ opcodeRow9 ++ opcodeRowA ++ opcodeRowB ++ opcodeRowC ++ opcodeRowD ++ opcodeRowE ++ opcodeRowF

/-- `Decode(b)` of 30_encoding.md R85: the row of an opcode byte, none for the 53 undefined ones (R90). -/
def lookupOpcode (op : Byte) : Option Row := opcodeTable.find? (fun r => r.opcode == op)

/-- Decode the instruction at the front of a list of bytes, and the bytes after it (R80 to R85). -/
def decode : List Byte → Except DecodeError (Instr × List Byte)
  | [] => .error .noByte
  | op :: rest =>
    match lookupOpcode op with
    | none => .error (.undefinedOpcode op)
    | some row =>
      match row.length, rest with
      | 1, rest => .ok (row.instr 0 0, rest)
      | 2, b1 :: rest => .ok (row.instr b1 0, rest)
      | 3, b1 :: b2 :: rest => .ok (row.instr b1 b2, rest)
      | _, _ => .error (.truncated op)

/-- The fixed mode of an instruction without a data operand, the mode of its operand otherwise. -/
def Instr.mode : Instr → Mode
  | .lda op | .ldx op | .ldy op | .sta op | .stx op | .sty op | .adc op | .sbc op
  | .and op | .ora op | .eor op | .bit op | .cmp op | .cpx op | .cpy op | .asl op
  | .lsr op | .rol op | .ror op | .inc op | .dec op | .lax op | .sax op | .dcp op
  | .isb op | .slo op | .rla op | .sre op | .rra op => .data op.mode
  | .jmp _ | .jsr _ => .data .abs
  | .jmpInd _ => .ind
  | .bcc _ | .bcs _ | .beq _ | .bne _ | .bmi _ | .bpl _ | .bvc _ | .bvs _ => .rel
  | .aslAcc | .lsrAcc | .rolAcc | .rorAcc => .acc
  | .tax | .tay | .txa | .tya | .tsx | .txs | .inx | .iny
  | .dex | .dey | .rts | .pha | .php | .pla | .plp | .clc
  | .sec | .cli | .sei | .clv | .cld | .sed | .nop | .brk
  | .rti => .imp

/-- The length of an instruction in bytes (30_encoding.md R83). -/
def Instr.length (i : Instr) : Nat := i.mode.length

/-- The operand bytes of a data operand, low byte first (20_memory.md R55). -/
def Operand.bytes : Operand → List Byte
  | .imm b1 | .zp b1 | .zpx b1 | .zpy b1 | .indx b1 | .indy b1 => [b1]
  | .abs base | .absx base | .absy base => [loByte base, hiByte base]

/-- The operand bytes of an instruction (30_encoding.md R81). -/
def Instr.operandBytes : Instr → List Byte
  | .lda op | .ldx op | .ldy op | .sta op | .stx op | .sty op | .adc op | .sbc op
  | .and op | .ora op | .eor op | .bit op | .cmp op | .cpx op | .cpy op | .asl op
  | .lsr op | .rol op | .ror op | .inc op | .dec op | .lax op | .sax op | .dcp op
  | .isb op | .slo op | .rla op | .sre op | .rra op => op.bytes
  | .jmp addr | .jsr addr | .jmpInd addr => [loByte addr, hiByte addr]
  | .bcc off | .bcs off | .beq off | .bne off | .bmi off | .bpl off | .bvc off | .bvs off => [off]
  | .tax | .tay | .txa | .tya | .tsx | .txs | .aslAcc | .lsrAcc
  | .rolAcc | .rorAcc | .inx | .iny | .dex | .dey | .rts | .pha
  | .php | .pla | .plp | .clc | .sec | .cli | .sei | .clv
  | .cld | .sed | .nop | .brk | .rti => []

/-- The opcode byte in the columns of a mnemonic's line of the tables of 30_encoding.md R87 and R88. -/
def opcodeIn (op : Operand) (columns : List (DataMode × Byte)) : Option Byte := columns.lookup op.mode

/-- The opcode byte of an instruction (30_encoding.md R87, R88), none where the tables have no entry. -/
def Instr.opcode : Instr → Option Byte
  | .lda op => opcodeIn op [(.imm, 0xA9), (.zp, 0xA5), (.zpx, 0xB5), (.abs, 0xAD), (.absx, 0xBD), (.absy, 0xB9), (.indx, 0xA1), (.indy, 0xB1)]
  | .ldx op => opcodeIn op [(.imm, 0xA2), (.zp, 0xA6), (.zpy, 0xB6), (.abs, 0xAE), (.absy, 0xBE)]
  | .ldy op => opcodeIn op [(.imm, 0xA0), (.zp, 0xA4), (.zpx, 0xB4), (.abs, 0xAC), (.absx, 0xBC)]
  | .sta op => opcodeIn op [(.zp, 0x85), (.zpx, 0x95), (.abs, 0x8D), (.absx, 0x9D), (.absy, 0x99), (.indx, 0x81), (.indy, 0x91)]
  | .stx op => opcodeIn op [(.zp, 0x86), (.zpy, 0x96), (.abs, 0x8E)]
  | .sty op => opcodeIn op [(.zp, 0x84), (.zpx, 0x94), (.abs, 0x8C)]
  | .tax => some 0xAA
  | .tay => some 0xA8
  | .txa => some 0x8A
  | .tya => some 0x98
  | .tsx => some 0xBA
  | .txs => some 0x9A
  | .adc op => opcodeIn op [(.imm, 0x69), (.zp, 0x65), (.zpx, 0x75), (.abs, 0x6D), (.absx, 0x7D), (.absy, 0x79), (.indx, 0x61), (.indy, 0x71)]
  | .sbc op => opcodeIn op [(.imm, 0xE9), (.zp, 0xE5), (.zpx, 0xF5), (.abs, 0xED), (.absx, 0xFD), (.absy, 0xF9), (.indx, 0xE1), (.indy, 0xF1)]
  | .and op => opcodeIn op [(.imm, 0x29), (.zp, 0x25), (.zpx, 0x35), (.abs, 0x2D), (.absx, 0x3D), (.absy, 0x39), (.indx, 0x21), (.indy, 0x31)]
  | .ora op => opcodeIn op [(.imm, 0x09), (.zp, 0x05), (.zpx, 0x15), (.abs, 0x0D), (.absx, 0x1D), (.absy, 0x19), (.indx, 0x01), (.indy, 0x11)]
  | .eor op => opcodeIn op [(.imm, 0x49), (.zp, 0x45), (.zpx, 0x55), (.abs, 0x4D), (.absx, 0x5D), (.absy, 0x59), (.indx, 0x41), (.indy, 0x51)]
  | .bit op => opcodeIn op [(.zp, 0x24), (.abs, 0x2C)]
  | .cmp op => opcodeIn op [(.imm, 0xC9), (.zp, 0xC5), (.zpx, 0xD5), (.abs, 0xCD), (.absx, 0xDD), (.absy, 0xD9), (.indx, 0xC1), (.indy, 0xD1)]
  | .cpx op => opcodeIn op [(.imm, 0xE0), (.zp, 0xE4), (.abs, 0xEC)]
  | .cpy op => opcodeIn op [(.imm, 0xC0), (.zp, 0xC4), (.abs, 0xCC)]
  | .aslAcc => some 0x0A
  | .asl op => opcodeIn op [(.zp, 0x06), (.zpx, 0x16), (.abs, 0x0E), (.absx, 0x1E)]
  | .lsrAcc => some 0x4A
  | .lsr op => opcodeIn op [(.zp, 0x46), (.zpx, 0x56), (.abs, 0x4E), (.absx, 0x5E)]
  | .rolAcc => some 0x2A
  | .rol op => opcodeIn op [(.zp, 0x26), (.zpx, 0x36), (.abs, 0x2E), (.absx, 0x3E)]
  | .rorAcc => some 0x6A
  | .ror op => opcodeIn op [(.zp, 0x66), (.zpx, 0x76), (.abs, 0x6E), (.absx, 0x7E)]
  | .inc op => opcodeIn op [(.zp, 0xE6), (.zpx, 0xF6), (.abs, 0xEE), (.absx, 0xFE)]
  | .dec op => opcodeIn op [(.zp, 0xC6), (.zpx, 0xD6), (.abs, 0xCE), (.absx, 0xDE)]
  | .inx => some 0xE8
  | .iny => some 0xC8
  | .dex => some 0xCA
  | .dey => some 0x88
  | .jmp _ => some 0x4C
  | .jmpInd _ => some 0x6C
  | .jsr _ => some 0x20
  | .rts => some 0x60
  | .bcc _ => some 0x90
  | .bcs _ => some 0xB0
  | .beq _ => some 0xF0
  | .bne _ => some 0xD0
  | .bmi _ => some 0x30
  | .bpl _ => some 0x10
  | .bvc _ => some 0x50
  | .bvs _ => some 0x70
  | .pha => some 0x48
  | .php => some 0x08
  | .pla => some 0x68
  | .plp => some 0x28
  | .clc => some 0x18
  | .sec => some 0x38
  | .cli => some 0x58
  | .sei => some 0x78
  | .clv => some 0xB8
  | .cld => some 0xD8
  | .sed => some 0xF8
  | .nop => some 0xEA
  | .brk => some 0x00
  | .rti => some 0x40
  | .lax op => opcodeIn op [(.zp, 0xA7), (.zpy, 0xB7), (.abs, 0xAF), (.absy, 0xBF), (.indx, 0xA3), (.indy, 0xB3)]
  | .sax op => opcodeIn op [(.zp, 0x87), (.zpy, 0x97), (.abs, 0x8F), (.indx, 0x83)]
  | .dcp op => opcodeIn op [(.zp, 0xC7), (.zpx, 0xD7), (.abs, 0xCF), (.absx, 0xDF), (.absy, 0xDB), (.indx, 0xC3), (.indy, 0xD3)]
  | .isb op => opcodeIn op [(.zp, 0xE7), (.zpx, 0xF7), (.abs, 0xEF), (.absx, 0xFF), (.absy, 0xFB), (.indx, 0xE3), (.indy, 0xF3)]
  | .slo op => opcodeIn op [(.zp, 0x07), (.zpx, 0x17), (.abs, 0x0F), (.absx, 0x1F), (.absy, 0x1B), (.indx, 0x03), (.indy, 0x13)]
  | .rla op => opcodeIn op [(.zp, 0x27), (.zpx, 0x37), (.abs, 0x2F), (.absx, 0x3F), (.absy, 0x3B), (.indx, 0x23), (.indy, 0x33)]
  | .sre op => opcodeIn op [(.zp, 0x47), (.zpx, 0x57), (.abs, 0x4F), (.absx, 0x5F), (.absy, 0x5B), (.indx, 0x43), (.indy, 0x53)]
  | .rra op => opcodeIn op [(.zp, 0x67), (.zpx, 0x77), (.abs, 0x6F), (.absx, 0x7F), (.absy, 0x7B), (.indx, 0x63), (.indy, 0x73)]

/-- The bytes of a well-formed instruction, in address order (30_encoding.md R81); none for an ill-formed one. -/
def encode (i : Instr) : Option (List Byte) := i.opcode.map (fun op => op :: i.operandBytes)

/-- The bytes of an instruction numbered as opcode_table.json numbers its bits: the first byte is bits 7..0, and every
bit from `nbits` on is 0. Three bytes, the longest instruction, are given. -/
def tableBytes (nbits w : Nat) : List Byte :=
  let v := w % 2 ^ nbits
  [BitVec.ofNat 8 v, BitVec.ofNat 8 (v / 2 ^ 8), BitVec.ofNat 8 (v / 2 ^ 16)]

/-- The instruction the decoder reads from `nbits` bits `w` of the table's numbering. -/
def decodeTableWord (nbits w : Nat) : Option Instr :=
  match decode (tableBytes nbits w) with
  | .ok (i, _) => some i
  | .error _ => none

end Sys2Proof
end

