-- ==== Sys2Proof/Machine/Operands.lean ====
section
/-! DEFINITION. The addressing-mode resolver and the operand access patterns (41_addressing_modes.md). -/

namespace Sys2Proof.Machine.State

/-- `EA(mode)` for the nine data-operand modes (41_addressing_modes.md R140 to R150). The operand bytes were read
with the instruction, so the resolver itself reads only the pointer bytes of the two indirect modes.
PC is still the address of the opcode byte (10_state.md R27). -/
def resolve (s : State) : Operand → Word × State
  | .imm _ => (s.pc + 1, s)
  | .zp b1 => (zext16 b1, s)
  | .zpx b1 => (zext16 (b1 + s.x), s)
  | .zpy b1 => (zext16 (b1 + s.y), s)
  | .abs base => (base, s)
  | .absx base => (base + zext16 s.x, s)
  | .absy base => (base + zext16 s.y, s)
  | .indx b1 => s.read16ZP (b1 + s.x)
  | .indy b1 =>
    let (base, s) := s.read16ZP b1
    (base + zext16 s.y, s)

/-- `LoadOperand()` (R154). The data read of an immediate operand is its operand byte (20_memory.md R64), which
was read with the instruction. -/
def loadOperand (s : State) (op : Operand) : Byte × State :=
  match op with
  | .imm b1 => (b1, s)
  | op =>
    let (ea, s) := s.resolve op
    s.busRead ea

/-- `StoreOperand(v)` (R154): no read of the target. -/
def storeOperand (s : State) (op : Operand) (v : Byte) : State :=
  let (ea, s) := s.resolve op
  s.busWrite ea v

/-- `Modify(f)` on a memory operand (R154): the address is resolved once; one read, then one write of the new value.
Yields the old value and the new one. -/
def modifyOperand (s : State) (op : Operand) (f : Byte → Byte) : Byte × Byte × State :=
  let (ea, s) := s.resolve op
  let (old, s) := s.busRead ea
  (old, f old, s.busWrite ea (f old))

/-- `EA(rel)` (41_addressing_modes.md R151). -/
def relativeTarget (s : State) (off : Byte) : Word := s.pc + 2 + sext16 off

end Sys2Proof.Machine.State

namespace Sys2Proof

/-- The length of an instruction with this data operand (30_encoding.md R83). -/
def Operand.length (op : Operand) : Nat := (Mode.data op.mode).length

end Sys2Proof
end

