-- ==== Sys2Proof/Machine/Arith.lean ====
section
/-! DEFINITION. Arithmetic, logic, test and compare (44_arithmetic_logic.md R200 to R208). -/

namespace Sys2Proof.Machine

/-- ADC: A and N, V, Z, C from `AluAdc(A, m, C)` (R200). -/
def execAdc (op : Operand) (s : State) : Host.Outcome State Fault Refusal :=
  let (m, s) := s.loadOperand op
  .next ((s.applyArith (aluAdc s.a m s.flags.c)).advance op.length)

/-- SBC: A and N, V, Z, C from `AluSbc(A, m, C)` (R201). -/
def execSbc (op : Operand) (s : State) : Host.Outcome State Fault Refusal :=
  let (m, s) := s.loadOperand op
  .next ((s.applyArith (aluSbc s.a m s.flags.c)).advance op.length)

/-- AND: `r = AluAnd(A, m); A <- r; SetNZ(r)` (R202). -/
def execAnd (op : Operand) (s : State) : Host.Outcome State Fault Refusal :=
  let (m, s) := s.loadOperand op
  let r := aluAnd s.a m
  .next (((s.setA r).setNZ r).advance op.length)

/-- ORA: `r = AluOra(A, m); A <- r; SetNZ(r)` (R203). -/
def execOra (op : Operand) (s : State) : Host.Outcome State Fault Refusal :=
  let (m, s) := s.loadOperand op
  let r := aluOra s.a m
  .next (((s.setA r).setNZ r).advance op.length)

/-- EOR: `r = AluEor(A, m); A <- r; SetNZ(r)` (R204). -/
def execEor (op : Operand) (s : State) : Host.Outcome State Fault Refusal :=
  let (m, s) := s.loadOperand op
  let r := aluEor s.a m
  .next (((s.setA r).setNZ r).advance op.length)

/-- BIT: Z, N, V from `AluBit(A, m)` (R205). -/
def execBit (op : Operand) (s : State) : Host.Outcome State Fault Refusal :=
  let (m, s) := s.loadOperand op
  .next ((s.applyBit (aluBit s.a m)).advance op.length)

/-- CMP: C, N, Z from `AluCmp(A, m)` (R206). -/
def execCmp (op : Operand) (s : State) : Host.Outcome State Fault Refusal :=
  let (m, s) := s.loadOperand op
  .next ((s.applyCompare (aluCmp s.a m)).advance op.length)

/-- CPX: C, N, Z from `AluCmp(X, m)` (R207). -/
def execCpx (op : Operand) (s : State) : Host.Outcome State Fault Refusal :=
  let (m, s) := s.loadOperand op
  .next ((s.applyCompare (aluCmp s.x m)).advance op.length)

/-- CPY: C, N, Z from `AluCmp(Y, m)` (R208). -/
def execCpy (op : Operand) (s : State) : Host.Outcome State Fault Refusal :=
  let (m, s) := s.loadOperand op
  .next ((s.applyCompare (aluCmp s.y m)).advance op.length)

end Sys2Proof.Machine
end

