-- ==== Sys2Proof/Machine/Shift.lean ====
section
/-! DEFINITION. Shifts, rotates, increments and decrements (45_shift_incdec.md R220 to R229). -/

namespace Sys2Proof.Machine

/-- The accumulator form of a shift: `Modify` on A with the carry and N, Z of the result
(45_shift_incdec.md R220 to R223, 41_addressing_modes.md R154). -/
def State.shiftAcc (s : State) (f : Byte → ShiftResult) : State :=
  let o := f s.a
  ((s.setA o.r).setC o.c).setNZ o.r

/-- The memory form of a shift up to its carry: `Modify(v => ...; C <- C'; r)`; yields the shifted byte. -/
def State.shiftOperand (s : State) (op : Operand) (f : Byte → ShiftResult) : Byte × State :=
  let (old, new, s) := s.modifyOperand op (fun v => (f v).r)
  (new, s.setC (f old).c)

/-- ASL A (R220). -/
def execAslAcc (s : State) : Host.Outcome State Fault Refusal :=
  .next ((s.shiftAcc aluAsl).advance 1)

/-- ASL on memory (R220). -/
def execAsl (op : Operand) (s : State) : Host.Outcome State Fault Refusal :=
  let (r, s) := s.shiftOperand op aluAsl
  .next ((s.setNZ r).advance op.length)

/-- LSR A (R221). -/
def execLsrAcc (s : State) : Host.Outcome State Fault Refusal :=
  .next ((s.shiftAcc aluLsr).advance 1)

/-- LSR on memory (R221). -/
def execLsr (op : Operand) (s : State) : Host.Outcome State Fault Refusal :=
  let (r, s) := s.shiftOperand op aluLsr
  .next ((s.setNZ r).advance op.length)

/-- ROL A (R222), with the carry of before. -/
def execRolAcc (s : State) : Host.Outcome State Fault Refusal :=
  .next ((s.shiftAcc (fun v => aluRol v s.flags.c)).advance 1)

/-- ROL on memory (R222), with the carry of before. -/
def execRol (op : Operand) (s : State) : Host.Outcome State Fault Refusal :=
  let (r, s) := s.shiftOperand op (fun v => aluRol v s.flags.c)
  .next ((s.setNZ r).advance op.length)

/-- ROR A (R223), with the carry of before. -/
def execRorAcc (s : State) : Host.Outcome State Fault Refusal :=
  .next ((s.shiftAcc (fun v => aluRor v s.flags.c)).advance 1)

/-- ROR on memory (R223), with the carry of before. -/
def execRor (op : Operand) (s : State) : Host.Outcome State Fault Refusal :=
  let (r, s) := s.shiftOperand op (fun v => aluRor v s.flags.c)
  .next ((s.setNZ r).advance op.length)

/-- INC: `r = Modify(AluInc); SetNZ(r)` (R224). -/
def execInc (op : Operand) (s : State) : Host.Outcome State Fault Refusal :=
  let (_, r, s) := s.modifyOperand op aluInc
  .next ((s.setNZ r).advance op.length)

/-- DEC: `r = Modify(AluDec); SetNZ(r)` (R225). -/
def execDec (op : Operand) (s : State) : Host.Outcome State Fault Refusal :=
  let (_, r, s) := s.modifyOperand op aluDec
  .next ((s.setNZ r).advance op.length)

/-- INX (R226). -/
def execInx (s : State) : Host.Outcome State Fault Refusal :=
  let r := aluInc s.x
  .next (((s.setX r).setNZ r).advance 1)

/-- INY (R227). -/
def execIny (s : State) : Host.Outcome State Fault Refusal :=
  let r := aluInc s.y
  .next (((s.setY r).setNZ r).advance 1)

/-- DEX (R228). -/
def execDex (s : State) : Host.Outcome State Fault Refusal :=
  let r := aluDec s.x
  .next (((s.setX r).setNZ r).advance 1)

/-- DEY (R229). -/
def execDey (s : State) : Host.Outcome State Fault Refusal :=
  let r := aluDec s.y
  .next (((s.setY r).setNZ r).advance 1)

end Sys2Proof.Machine
end

