-- ==== Sys2Proof/Machine/Composite.lean ====
section
/-! DEFINITION. The eight composites (48_illegal_composites.md R280 to R288): the register half uses the byte
written, with no further access (R288). -/

namespace Sys2Proof.Machine

/-- LAX = LDA + LDX with one read (R280). -/
def execLax (op : Operand) (s : State) : Host.Outcome State Fault Refusal :=
  let (m, s) := s.loadOperand op
  .next ((((s.setA m).setX m).setNZ m).advance op.length)

/-- SAX: `StoreOperand(A AND X)`, no flag (R281). -/
def execSax (op : Operand) (s : State) : Host.Outcome State Fault Refusal :=
  .next ((s.storeOperand op (aluAnd s.a s.x)).advance op.length)

/-- DCP = DEC + CMP: the compare uses the decremented byte (R282). -/
def execDcp (op : Operand) (s : State) : Host.Outcome State Fault Refusal :=
  let (_, r, s) := s.modifyOperand op aluDec
  .next ((s.applyCompare (aluCmp s.a r)).advance op.length)

/-- ISB = INC + SBC, with the carry of before (R283). -/
def execIsb (op : Operand) (s : State) : Host.Outcome State Fault Refusal :=
  let (_, r, s) := s.modifyOperand op aluInc
  .next ((s.applyArith (aluSbc s.a r s.flags.c)).advance op.length)

/-- SLO = ASL + ORA: C from the shift, N and Z from the new A (R284). -/
def execSlo (op : Operand) (s : State) : Host.Outcome State Fault Refusal :=
  let (r, s) := s.shiftOperand op aluAsl
  let a' := aluOra s.a r
  .next (((s.setA a').setNZ a').advance op.length)

/-- RLA = ROL + AND: C from the shift, N and Z from the new A (R285). -/
def execRla (op : Operand) (s : State) : Host.Outcome State Fault Refusal :=
  let (r, s) := s.shiftOperand op (fun v => aluRol v s.flags.c)
  let a' := aluAnd s.a r
  .next (((s.setA a').setNZ a').advance op.length)

/-- SRE = LSR + EOR: C from the shift, N and Z from the new A (R286). -/
def execSre (op : Operand) (s : State) : Host.Outcome State Fault Refusal :=
  let (r, s) := s.shiftOperand op aluLsr
  let a' := aluEor s.a r
  .next (((s.setA a').setNZ a').advance op.length)

/-- RRA = ROR + ADC: the carry the rotate produced is the carry-in of the addition (R287). -/
def execRra (op : Operand) (s : State) : Host.Outcome State Fault Refusal :=
  let (r, s) := s.shiftOperand op (fun v => aluRor v s.flags.c)
  .next ((s.applyArith (aluAdc s.a r s.flags.c)).advance op.length)

end Sys2Proof.Machine
end

