-- ==== Sys2Proof/Machine/Control.lean ====
section
/-! DEFINITION. Jumps, call and return, branches (46_control_flow.md R240 to R252). -/

namespace Sys2Proof.Machine

/-- JMP absolute (R240). -/
def execJmp (target : Word) (s : State) : Host.Outcome State Fault Refusal :=
  .next (s.setPC target)

/-- JMP indirect, with the page bug of `Read16Bug` (R241). -/
def execJmpInd (ptr : Word) (s : State) : Host.Outcome State Fault Refusal :=
  let (target, s) := s.read16Bug ptr
  .next (s.setPC target)

/-- JSR: pushes the address of its last byte, high byte first (R242). Both operand bytes were read with the
instruction, before anything is pushed. -/
def execJsr (target : Word) (s : State) : Host.Outcome State Fault Refusal :=
  let ra := s.pc + 2
  .next (((s.push (hiByte ra)).push (loByte ra)).setPC target)

/-- RTS: pulls low then high and continues one past (R243). -/
def execRts (s : State) : Host.Outcome State Fault Refusal :=
  let (lo, s) := s.pull
  let (hi, s) := s.pull
  .next (s.setPC (joinBytes hi lo + 1))

/-- The common branch rule (R252). The offset byte was read with the instruction, taken or not. -/
def State.branch (s : State) (cond : Bool) (off : Byte) : State :=
  if cond then s.setPC (s.relativeTarget off) else s.advance 2

/-- BCC: branch if C = 0 (R244). -/
def execBcc (off : Byte) (s : State) : Host.Outcome State Fault Refusal :=
  .next (s.branch (!s.flags.c) off)

/-- BCS: branch if C = 1 (R245). -/
def execBcs (off : Byte) (s : State) : Host.Outcome State Fault Refusal :=
  .next (s.branch s.flags.c off)

/-- BEQ: branch if Z = 1 (R246). -/
def execBeq (off : Byte) (s : State) : Host.Outcome State Fault Refusal :=
  .next (s.branch s.flags.z off)

/-- BNE: branch if Z = 0 (R247). -/
def execBne (off : Byte) (s : State) : Host.Outcome State Fault Refusal :=
  .next (s.branch (!s.flags.z) off)

/-- BMI: branch if N = 1 (R248). -/
def execBmi (off : Byte) (s : State) : Host.Outcome State Fault Refusal :=
  .next (s.branch s.flags.n off)

/-- BPL: branch if N = 0 (R249). -/
def execBpl (off : Byte) (s : State) : Host.Outcome State Fault Refusal :=
  .next (s.branch (!s.flags.n) off)

/-- BVC: branch if V = 0 (R250). -/
def execBvc (off : Byte) (s : State) : Host.Outcome State Fault Refusal :=
  .next (s.branch (!s.flags.v) off)

/-- BVS: branch if V = 1 (R251). -/
def execBvs (off : Byte) (s : State) : Host.Outcome State Fault Refusal :=
  .next (s.branch s.flags.v off)

end Sys2Proof.Machine
end

