-- ==== Sys2Proof/Machine/LoadStore.lean ====
section
/-! DEFINITION. Loads, stores and register transfers (43_load_store_transfer.md R180 to R191). -/

namespace Sys2Proof.Machine

/-- LDA: `m = LoadOperand(); A <- m; SetNZ(m)` (R180). -/
def execLda (op : Operand) (s : State) : Host.Outcome State Fault Refusal :=
  let (m, s) := s.loadOperand op
  .next (((s.setA m).setNZ m).advance op.length)

/-- LDX: `m = LoadOperand(); X <- m; SetNZ(m)` (R181). -/
def execLdx (op : Operand) (s : State) : Host.Outcome State Fault Refusal :=
  let (m, s) := s.loadOperand op
  .next (((s.setX m).setNZ m).advance op.length)

/-- LDY: `m = LoadOperand(); Y <- m; SetNZ(m)` (R182). -/
def execLdy (op : Operand) (s : State) : Host.Outcome State Fault Refusal :=
  let (m, s) := s.loadOperand op
  .next (((s.setY m).setNZ m).advance op.length)

/-- STA: `StoreOperand(A)`, no flag (R183). -/
def execSta (op : Operand) (s : State) : Host.Outcome State Fault Refusal :=
  .next ((s.storeOperand op s.a).advance op.length)

/-- STX: `StoreOperand(X)`, no flag (R184). -/
def execStx (op : Operand) (s : State) : Host.Outcome State Fault Refusal :=
  .next ((s.storeOperand op s.x).advance op.length)

/-- STY: `StoreOperand(Y)`, no flag (R185). -/
def execSty (op : Operand) (s : State) : Host.Outcome State Fault Refusal :=
  .next ((s.storeOperand op s.y).advance op.length)

/-- TAX: `X <- A; SetNZ(A)` (R186). -/
def execTax (s : State) : Host.Outcome State Fault Refusal :=
  .next (((s.setX s.a).setNZ s.a).advance 1)

/-- TAY: `Y <- A; SetNZ(A)` (R187). -/
def execTay (s : State) : Host.Outcome State Fault Refusal :=
  .next (((s.setY s.a).setNZ s.a).advance 1)

/-- TXA: `A <- X; SetNZ(X)` (R188). -/
def execTxa (s : State) : Host.Outcome State Fault Refusal :=
  .next (((s.setA s.x).setNZ s.x).advance 1)

/-- TYA: `A <- Y; SetNZ(Y)` (R189). -/
def execTya (s : State) : Host.Outcome State Fault Refusal :=
  .next (((s.setA s.y).setNZ s.y).advance 1)

/-- TSX: `X <- SP; SetNZ(SP)` (R190). -/
def execTsx (s : State) : Host.Outcome State Fault Refusal :=
  .next (((s.setX s.sp).setNZ s.sp).advance 1)

/-- TXS: `SP <- X`, no flag (R191). -/
def execTxs (s : State) : Host.Outcome State Fault Refusal :=
  .next ((s.setSP s.x).advance 1)

end Sys2Proof.Machine
end

