-- ==== Sys2Proof/Machine/StackFlags.lean ====
section
/-! DEFINITION. Stack and flag instructions, NOP, BRK and RTI (47_stack_flags_system.md R260 to R273). -/

namespace Sys2Proof.Machine

/-- PHA: `Push(A)` (R260). -/
def execPha (s : State) : Host.Outcome State Fault Refusal :=
  .next ((s.push s.a).advance 1)

/-- PHP: `Push(Pack() OR 0x30)`; the stored B is not changed (R261). -/
def execPhp (s : State) : Host.Outcome State Fault Refusal :=
  .next ((s.push s.statusForBreak).advance 1)

/-- PLA: `v = Pull(); A <- v; SetNZ(v)` (R262). -/
def execPla (s : State) : Host.Outcome State Fault Refusal :=
  let (v, s) := s.pull
  .next (((s.setA v).setNZ v).advance 1)

/-- PLP: `UnpackPulled(Pull())` (R263). -/
def execPlp (s : State) : Host.Outcome State Fault Refusal :=
  let (b, s) := s.pull
  .next ((s.setFlags (s.flags.unpackPulled b)).advance 1)

/-- CLC: `C <- 0` (R264). -/
def execClc (s : State) : Host.Outcome State Fault Refusal :=
  .next ((s.setFlags { s.flags with c := false }).advance 1)

/-- SEC: `C <- 1` (R265). -/
def execSec (s : State) : Host.Outcome State Fault Refusal :=
  .next ((s.setFlags { s.flags with c := true }).advance 1)

/-- CLI: `I <- 0` (R266). -/
def execCli (s : State) : Host.Outcome State Fault Refusal :=
  .next ((s.setFlags { s.flags with i := false }).advance 1)

/-- SEI: `I <- 1` (R267). -/
def execSei (s : State) : Host.Outcome State Fault Refusal :=
  .next ((s.setFlags { s.flags with i := true }).advance 1)

/-- CLV: `V <- 0` (R268). -/
def execClv (s : State) : Host.Outcome State Fault Refusal :=
  .next ((s.setFlags { s.flags with v := false }).advance 1)

/-- CLD: `D <- 0` (R269). -/
def execCld (s : State) : Host.Outcome State Fault Refusal :=
  .next ((s.setFlags { s.flags with d := false }).advance 1)

/-- SED: `D <- 1` (R270). -/
def execSed (s : State) : Host.Outcome State Fault Refusal :=
  .next ((s.setFlags { s.flags with d := true }).advance 1)

/-- NOP: only PC advances (R271). -/
def execNop (s : State) : Host.Outcome State Fault Refusal :=
  .next (s.advance 1)

/-- BRK: trap entry through 0xFFFE with return address PC + 2 and bits 4 and 5 of the pushed status 1 (R272,
60_exceptions.md R309). Taken whatever I is. -/
def execBrk (s : State) : Host.Outcome State Fault Refusal :=
  .next (s.enterTrap (s.pc + 2) s.statusForBreak 0xFFFE)

/-- RTI: return from a trap (R273, 60_exceptions.md R312). -/
def execRti (s : State) : Host.Outcome State Fault Refusal :=
  .next s.returnFromTrap

end Sys2Proof.Machine
end

