-- ==== Sys2Proof/Machine/Dispatch.lean ====
section
/-! DEFINITION. The instruction-level step `ExecInstr` of 42_execution_engine.md R171 for a decoded instruction: one arm
for each constructor. -/

namespace Sys2Proof.Machine

def exec (i : Instr) (s : State) : Host.Outcome State Fault Refusal :=
  match i with
  -- Loads (43_load_store_transfer.md R180 to R182)
  | .lda op => Sys2Proof.Machine.execLda op s
  | .ldx op => Sys2Proof.Machine.execLdx op s
  | .ldy op => Sys2Proof.Machine.execLdy op s
  -- Stores (R183 to R185)
  | .sta op => Sys2Proof.Machine.execSta op s
  | .stx op => Sys2Proof.Machine.execStx op s
  | .sty op => Sys2Proof.Machine.execSty op s
  -- Register transfers (R186 to R191)
  | .tax => Sys2Proof.Machine.execTax s
  | .tay => Sys2Proof.Machine.execTay s
  | .txa => Sys2Proof.Machine.execTxa s
  | .tya => Sys2Proof.Machine.execTya s
  | .tsx => Sys2Proof.Machine.execTsx s
  | .txs => Sys2Proof.Machine.execTxs s
  -- Arithmetic, logic, test and compare (44_arithmetic_logic.md R200 to R208)
  | .adc op => Sys2Proof.Machine.execAdc op s
  | .sbc op => Sys2Proof.Machine.execSbc op s
  | .and op => Sys2Proof.Machine.execAnd op s
  | .ora op => Sys2Proof.Machine.execOra op s
  | .eor op => Sys2Proof.Machine.execEor op s
  | .bit op => Sys2Proof.Machine.execBit op s
  | .cmp op => Sys2Proof.Machine.execCmp op s
  | .cpx op => Sys2Proof.Machine.execCpx op s
  | .cpy op => Sys2Proof.Machine.execCpy op s
  -- Shifts and rotates, accumulator form and memory form (45_shift_incdec.md R220 to R223)
  | .aslAcc => Sys2Proof.Machine.execAslAcc s
  | .asl op => Sys2Proof.Machine.execAsl op s
  | .lsrAcc => Sys2Proof.Machine.execLsrAcc s
  | .lsr op => Sys2Proof.Machine.execLsr op s
  | .rolAcc => Sys2Proof.Machine.execRolAcc s
  | .rol op => Sys2Proof.Machine.execRol op s
  | .rorAcc => Sys2Proof.Machine.execRorAcc s
  | .ror op => Sys2Proof.Machine.execRor op s
  -- Increments and decrements (R224 to R229)
  | .inc op => Sys2Proof.Machine.execInc op s
  | .dec op => Sys2Proof.Machine.execDec op s
  | .inx => Sys2Proof.Machine.execInx s
  | .iny => Sys2Proof.Machine.execIny s
  | .dex => Sys2Proof.Machine.execDex s
  | .dey => Sys2Proof.Machine.execDey s
  -- Jumps, call and return (46_control_flow.md R240 to R243)
  | .jmp target => Sys2Proof.Machine.execJmp target s
  | .jmpInd ptr => Sys2Proof.Machine.execJmpInd ptr s
  | .jsr target => Sys2Proof.Machine.execJsr target s
  | .rts => Sys2Proof.Machine.execRts s
  -- Conditional branches (R244 to R252)
  | .bcc off => Sys2Proof.Machine.execBcc off s
  | .bcs off => Sys2Proof.Machine.execBcs off s
  | .beq off => Sys2Proof.Machine.execBeq off s
  | .bne off => Sys2Proof.Machine.execBne off s
  | .bmi off => Sys2Proof.Machine.execBmi off s
  | .bpl off => Sys2Proof.Machine.execBpl off s
  | .bvc off => Sys2Proof.Machine.execBvc off s
  | .bvs off => Sys2Proof.Machine.execBvs off s
  -- Stack instructions (47_stack_flags_system.md R260 to R263)
  | .pha => Sys2Proof.Machine.execPha s
  | .php => Sys2Proof.Machine.execPhp s
  | .pla => Sys2Proof.Machine.execPla s
  | .plp => Sys2Proof.Machine.execPlp s
  -- Flag instructions and NOP (R264 to R271)
  | .clc => Sys2Proof.Machine.execClc s
  | .sec => Sys2Proof.Machine.execSec s
  | .cli => Sys2Proof.Machine.execCli s
  | .sei => Sys2Proof.Machine.execSei s
  | .clv => Sys2Proof.Machine.execClv s
  | .cld => Sys2Proof.Machine.execCld s
  | .sed => Sys2Proof.Machine.execSed s
  | .nop => Sys2Proof.Machine.execNop s
  -- Software interrupt and return (R272, R273)
  | .brk => Sys2Proof.Machine.execBrk s
  | .rti => Sys2Proof.Machine.execRti s
  -- Composites (48_illegal_composites.md R280 to R287)
  | .lax op => Sys2Proof.Machine.execLax op s
  | .sax op => Sys2Proof.Machine.execSax op s
  | .dcp op => Sys2Proof.Machine.execDcp op s
  | .isb op => Sys2Proof.Machine.execIsb op s
  | .slo op => Sys2Proof.Machine.execSlo op s
  | .rla op => Sys2Proof.Machine.execRla op s
  | .sre op => Sys2Proof.Machine.execSre op s
  | .rra op => Sys2Proof.Machine.execRra op s

end Sys2Proof.Machine
end

