-- ==== Sys2Proof/Machine/Tick.lean ====
section
/-! DEFINITION. The parts of one `step()` call: sampling the input lines, draining, the interrupt poll and entry, the
fetch, and cycle banking (42_execution_engine.md, 60_exceptions.md R306 to R308). -/

namespace Sys2Proof.Machine

/-- The interrupt sources (60_exceptions.md R307). -/
inductive Interrupt where
  | nmi
  | irq
  deriving DecidableEq, Repr

/-- The vector of each source (60_exceptions.md R308, R310). -/
def Interrupt.vector : Interrupt → Word
  | .nmi => 0xFFFA
  | .irq => 0xFFFE

/-- The cycle count returned with each result (42_execution_engine.md R169). -/
def StepResult.count : StepResult → Nat
  | .ran cycles => cycles
  | .noOpThisTick => 0
  | .halted _ => 0

/-- The three states of the engine (10_state.md R41). -/
inductive Engine where
  | idleFetch
  | cycleDraining
  | halted
  deriving DecidableEq, Repr

namespace State

/-- `Engine`, derived from the stored bit and `PendingCycles` (10_state.md R41). -/
def engine (s : State) : Engine :=
  if s.halted then .halted else if s.pendingCycles > 0 then .cycleDraining else .idleFetch

/-- The lines as this call samples them; past the end of the schedule they are deasserted (assumption log 3). -/
def lines (s : State) : Lines := s.inputs.headD { irq := false, nmi := false }

/-- The sampling at the start of every `step()` call (60_exceptions.md R306). -/
def sampleLines (s : State) : State :=
  if s.cfg.hasInterruptInputs then
    { s with
      nmiLatch := s.nmiLatch || (s.lines.nmi && !s.nmiPrev)
      nmiPrev := s.lines.nmi
      inputs := s.inputs.tail }
  else s

/-- The start of a `step()` call: no access made yet, the lines sampled. -/
def beginTick (s : State) : State := { s.sampleLines with bus := [] }

/-- Note what the call returns (42_execution_engine.md R169). -/
def report (s : State) (r : StepResult) : State := { s with result := some r }

/-- Step rule 1 (42_execution_engine.md R161). -/
def drain (s : State) : State := { s with pendingCycles := s.pendingCycles - 1 }.report .noOpThisTick

/-- `Engine <- Halted; return halted` with a cause (42_execution_engine.md R164, R165). -/
def enterHalted (s : State) (cause : HaltCause) : State := { s with halted := true }.report (.halted (some cause))

/-- Acceptance of a pending interrupt in Idle-fetch, `lines` being this call's sample (60_exceptions.md R307). -/
def accepted (s : State) (lines : Lines) : Option Interrupt :=
  if s.cfg.hasInterruptInputs then
    if s.nmiLatch then some .nmi
    else if lines.irq && !s.flags.i then some .irq
    else none
  else none

/-- Hardware interrupt entry (60_exceptions.md R308) without its cycles. -/
def enterInterrupt (s : State) (k : Interrupt) : State :=
  let s := s.enterTrap s.pc s.statusForInterrupt k.vector
  match k with
  | .nmi => { s with nmiLatch := false }
  | .irq => s

/-- Cycle banking: `PendingCycles <- c - 1; return (ran, c)` (42_execution_engine.md R168). -/
def bankCycles (s : State) (cycles : Nat) : State := { s with pendingCycles := cycles - 1 }.report (.ran cycles)

/-- Fetch at PC: the opcode byte, then the operand bytes its row says, at ascending addresses (42_execution_engine.md
R163, 20_memory.md R63, R69). Gives the instruction and its cycle count, or none for an undefined opcode, after which
no operand byte is read (R165). -/
def fetch (s : State) : Option (Instr × Nat) × State :=
  let (op, s₁) := s.busRead s.pc
  match lookupOpcode op with
  | none => (none, s₁)
  | some row =>
    match row.length with
    | 2 =>
      let (b1, s₂) := s₁.busRead (s.pc + 1)
      (some (row.instr b1 0, row.cycles), s₂)
    | 3 =>
      let (b1, s₂) := s₁.busRead (s.pc + 1)
      let (b2, s₃) := s₂.busRead (s.pc + 2)
      (some (row.instr b1 b2, row.cycles), s₃)
    | _ => (some (row.instr 0 0, row.cycles), s₁)

/-- Undefined opcode: PC + 1, Halted, cause UndecodableOpcode (42_execution_engine.md R165). -/
def haltUndecodable (s : State) : State := (s.setPC (s.pc + 1)).enterHalted .undecodableOpcode

/-- Store bytes in the byte array at ascending addresses from `addr`, without an access of the core (a loader's act,
20_memory.md R53). -/
def placeBytes (s : State) (addr : Word) : List Byte → State
  | [] => s
  | b :: bs => placeBytes { s with mem := { s.mem with ram := s.mem.ram.write addr.toNat b } } (addr + 1) bs

/-- The state in which the next call of `step()` fetches: started, Idle-fetch, not at `HALT_ADDR`, no interrupt
pending or asserted at the next sample, and PC and the two addresses after it in RAM. Everything else is kept. -/
def readyToFetch (s : State) : State :=
  { s with
    started := true
    halted := false
    pendingCycles := 0
    cfg := if s.cfg.haltAddr = some s.pc then { s.cfg with haltAddr := none } else s.cfg
    nmiLatch := if s.cfg.hasInterruptInputs then false else s.nmiLatch
    inputs := if s.cfg.hasInterruptInputs then { irq := false, nmi := false } :: s.inputs.tail else s.inputs
    mem := { s.mem with
      hooks := s.mem.hooks.filter (fun h => !(h.covers s.pc || h.covers (s.pc + 1) || h.covers (s.pc + 2))) } }

end State

end Sys2Proof.Machine
end

