-- ==== Sys2Proof/Machine/Step.lean ====
section
/-! DEFINITION. One call of `step()` (42_execution_engine.md R170, 60_exceptions.md R311), and how an instruction is placed
where the next call fetches. -/

namespace Sys2Proof.Machine

/-- Step rule 3 without the `HALT_ADDR` test and the poll: fetch at PC and execute (42_execution_engine.md R163, R165),
one whole instruction (R171), with its cycles banked (R168). -/
def fetchAndExecute (s : State) : Host.Outcome State Fault Refusal :=
  match s.fetch with
  | (none, s') => .next s'.haltUndecodable
  | (some (i, cycles), s') =>
    match exec i s' with
    | .next t => .next (t.bankCycles cycles)
    | .fault r => .fault r
    | .refused r => .refused r

/-- One call of `step()`: the tests in the order of 60_exceptions.md R311. Before the first `reset()` it returns
`halted` and changes nothing (42_execution_engine.md R175). -/
def step (s : State) : Host.Outcome State Fault Refusal :=
  if s.started then
    let lines := s.lines
    let s := s.beginTick
    if s.pendingCycles > 0 then .next s.drain
    else if s.halted then .next (s.report (.halted none))
    else if s.cfg.haltAddr = some s.pc then .next (s.enterHalted .haltAddressReached)
    else
      match s.accepted lines with
      | some k => .next ((s.enterInterrupt k).bankCycles 7)
      | none => fetchAndExecute s
  else .next ({ s with bus := [] }.report (.halted (some .nullProgramCounter)))

/-- `s` with the instruction of `nbits` bits `w` (numbered as opcode_table.json numbers them) stored at PC, so that the
very next step runs it (assumption log 10). -/
def State.withFetchWord (s : State) (nbits w : Nat) : State :=
  s.readyToFetch.placeBytes s.pc (tableBytes nbits w)

end Sys2Proof.Machine
end

