-- ==== Sys2Proof/Machine/FixedWidth.lean ====
section
/-! DEFINITION. The operators of the fixed-width value type (40_fixed_width_alu.md section 1, R100 to R110).
A value is its bit pattern; the signedness tag is an argument of the two operators that read it
(R100 `value`, R107 right shift) and is no part of any register (10_state.md R26).
Multiplication and exponentiation are left out, as R108 and 00_scope.md R4 (f) say. -/

namespace Sys2Proof.FixedWidth

variable {w : Nat}

/-- R101: truncate any integer, negative included, to `w` bits. -/
def construct (n : Int) : BitVec w := BitVec.ofInt w n

/-- R100: the integer the tagged value stands for. -/
def value (signed : Bool) (v : BitVec w) : Int := if signed then v.toInt else (v.toNat : Int)

/-- R102: the non-negative representation `u(v)`. -/
def toUnsignedInteger (v : BitVec w) : Nat := v.toNat

/-- R103: addition wraps silently. -/
def add (a b : BitVec w) : BitVec w := construct ((toUnsignedInteger a : Int) + toUnsignedInteger b)

/-- R103: subtraction wraps silently. -/
def sub (a b : BitVec w) : BitVec w := construct ((toUnsignedInteger a : Int) - toUnsignedInteger b)

/-- R104: two's complement. -/
def neg (a : BitVec w) : BitVec w := construct (-(toUnsignedInteger a : Int))

/-- R104: every bit inverted, `2^N - 1 - u(a)`. -/
def complement (a : BitVec w) : BitVec w := construct ((2 ^ w : Int) - 1 - toUnsignedInteger a)

/-- R105. -/
def and (a b : BitVec w) : BitVec w := a &&& b

/-- R105. -/
def or (a b : BitVec w) : BitVec w := a ||| b

/-- R105. -/
def xor (a b : BitVec w) : BitVec w := a ^^^ b

/-- R106: left shift of the unsigned pattern, re-truncated. -/
def shiftLeft (a : BitVec w) (k : Nat) : BitVec w := construct ((toUnsignedInteger a : Int) * 2 ^ k)

/-- R107: right shift, arithmetic on a signed-tagged value; no instruction uses the signed form
(90_conflicts.md C1). -/
def shiftRight (signed : Bool) (a : BitVec w) (k : Nat) : BitVec w :=
  construct (value signed a / 2 ^ k)

end Sys2Proof.FixedWidth
end

