-- ==== Sys2Proof/Safety.lean ====
section
/-! DEFINITION. The terms in which claims are stated: the invariant of the machine, when a step fetches, what accesses
an operand takes as a pure function of the state and the platform, and which instructions may write what.
The pure functions are read from 41_addressing_modes.md and 20_memory.md a second time, beside the definitions the
machine runs; a claim that compares the two is a check of both. -/

namespace Sys2Proof.Machine

namespace State

/-- The invariant of every step: the byte array in canonical form, `PendingCycles` at most 7 (10_state.md R40), and no
cycles pending in `Halted` (42_execution_engine.md R161). -/
abbrev Inv (s : State) : Prop :=
  s.mem.ram.wf = true ∧ s.pendingCycles ≤ 7 ∧ (s.halted = true → s.pendingCycles = 0)

/-- The next call of `step()` reaches the opcode fetch (60_exceptions.md R311, after item 6). -/
abbrev Ready (s : State) : Prop :=
  s.started = true ∧ s.pendingCycles = 0 ∧ s.halted = false ∧ s.cfg.haltAddr ≠ some s.pc ∧
    s.beginTick.accepted s.lines = none

/-- Everything the engine, the driver and the parameters own: no instruction writes any of it. -/
abbrev SameOutsideProgram (s t : State) : Prop :=
  t.pendingCycles = s.pendingCycles ∧ t.halted = s.halted ∧ t.started = s.started ∧ t.nmiLatch = s.nmiLatch ∧
    t.nmiPrev = s.nmiPrev ∧ t.cfg = s.cfg ∧ t.inputs = s.inputs ∧ t.result = s.result

/-- The byte the platform answers to a read of an address made now. -/
def byteAt (s : State) (addr : Word) : Byte := (s.mem.read addr).1

end State

/-- What some accesses bring: a value, the platform after them, and the accesses themselves in order. -/
structure Moved (α : Type) where
  value : α
  mem : Platform
  accesses : List Access

/-- One read (20_memory.md R51). -/
def Platform.readByte (m : Platform) (addr : Word) : Moved Byte :=
  { value := (m.read addr).1, mem := (m.read addr).2, accesses := [.read addr (m.read addr).1] }

/-- Two reads, the low byte of a word first (20_memory.md R57 to R59). -/
def Platform.readWord (m : Platform) (lo hi : Word) : Moved Word :=
  let l := m.readByte lo
  let h := l.mem.readByte hi
  { value := joinBytes h.value l.value, mem := h.mem, accesses := l.accesses ++ h.accesses }

/-- Reads in the given order (20_memory.md R63). -/
def Platform.readAll (m : Platform) : List Word → Moved (List Byte)
  | [] => { value := [], mem := m, accesses := [] }
  | addr :: addrs =>
    let b := m.readByte addr
    let bs := readAll b.mem addrs
    { value := b.value :: bs.value, mem := bs.mem, accesses := b.accesses ++ bs.accesses }

/-- The platform after exactly these calls of its two operations, none if it would have answered one of the reads with
another byte (20_memory.md R52, R62). -/
def Platform.replay (m : Platform) : List Access → Option Platform
  | [] => some m
  | .read addr v :: accs => if (m.read addr).1 = v then replay (m.read addr).2 accs else none
  | .write addr v :: accs => replay (m.write addr v) accs

namespace State

/-- The state after some accesses: the platform they leave, and the accesses noted. -/
def afterMoves {α : Type} (s : State) (moved : Moved α) : State := (s.setMem moved.mem).note moved.accesses

/-- `EA` with the reads of its pointer bytes, in the unsigned integers with the wraps of 41_addressing_modes.md R141 to
R150 (the pointer inside the zero page: 20_memory.md R58). -/
def effectiveAddress (s : State) : Operand → Moved Word
  | .imm _ => { value := BitVec.ofNat 16 (s.pc.toNat + 1), mem := s.mem, accesses := [] }
  | .zp b1 => { value := BitVec.ofNat 16 b1.toNat, mem := s.mem, accesses := [] }
  | .zpx b1 => { value := BitVec.ofNat 16 ((b1.toNat + s.x.toNat) % 256), mem := s.mem, accesses := [] }
  | .zpy b1 => { value := BitVec.ofNat 16 ((b1.toNat + s.y.toNat) % 256), mem := s.mem, accesses := [] }
  | .abs base => { value := base, mem := s.mem, accesses := [] }
  | .absx base => { value := BitVec.ofNat 16 (base.toNat + s.x.toNat), mem := s.mem, accesses := [] }
  | .absy base => { value := BitVec.ofNat 16 (base.toNat + s.y.toNat), mem := s.mem, accesses := [] }
  | .indx b1 => s.mem.readWord (zext16 (b1 + s.x)) (zext16 (b1 + s.x + 1))
  | .indy b1 =>
    let base := s.mem.readWord (zext16 b1) (zext16 (b1 + 1))
    { base with value := BitVec.ofNat 16 (base.value.toNat + s.y.toNat) }

/-- The byte at the effective address, after the pointer reads. -/
def operandInMemory (s : State) (op : Operand) : Moved Byte :=
  let ea := s.effectiveAddress op
  let b := ea.mem.readByte ea.value
  { b with accesses := ea.accesses ++ b.accesses }

/-- `LoadOperand()` (41_addressing_modes.md R154): an immediate is its operand byte, read with the instruction (R141). -/
def loaded (s : State) (op : Operand) : Moved Byte :=
  match op with
  | .imm b1 => { value := b1, mem := s.mem, accesses := [] }
  | .zp b1 => s.operandInMemory (.zp b1)
  | .zpx b1 => s.operandInMemory (.zpx b1)
  | .zpy b1 => s.operandInMemory (.zpy b1)
  | .abs base => s.operandInMemory (.abs base)
  | .absx base => s.operandInMemory (.absx base)
  | .absy base => s.operandInMemory (.absy base)
  | .indx b1 => s.operandInMemory (.indx b1)
  | .indy b1 => s.operandInMemory (.indy b1)

/-- `StoreOperand(v)`: the pointer reads, then the write (20_memory.md R63, R64). -/
def stored (s : State) (op : Operand) (v : Byte) : Moved Byte :=
  let ea := s.effectiveAddress op
  { value := v, mem := ea.mem.write ea.value v, accesses := ea.accesses ++ [.write ea.value v] }

/-- `Modify` of the byte at the effective address to `new`: the pointer reads, one read, one write, with the old byte as
its value (20_memory.md R62 (a)). -/
def modified (s : State) (op : Operand) (new : Byte) : Moved Byte :=
  let ea := s.effectiveAddress op
  let old := s.operandInMemory op
  { value := old.value, mem := old.mem.write ea.value new, accesses := old.accesses ++ [.write ea.value new] }

/-- The three bytes the platform answers to reads of PC, PC + 1 and PC + 2 in that order. -/
def bytesAtPC (s : State) : List Byte := (s.mem.readAll [s.pc, s.pc + 1, s.pc + 2]).value

end State

/-- Addresses the machine may store to while it executes `i` in `s`: the effective address of a store or of a
read-modify-write, and the stack bytes a push writes (47_stack_flags_system.md R258). -/
def storedAddrs (i : Instr) (s : State) : List Word :=
  match i with
  | .sta op | .stx op | .sty op | .sax op
  | .asl op | .lsr op | .rol op | .ror op | .inc op | .dec op
  | .dcp op | .isb op | .slo op | .rla op | .sre op | .rra op => [(s.resolve op).1]
  | .pha | .php => [State.stackAddr s.sp]
  | .jsr _ => [State.stackAddr s.sp, State.stackAddr (s.sp - 1)]
  | .brk => [State.stackAddr s.sp, State.stackAddr (s.sp - 1), State.stackAddr (s.sp - 2)]
  | .lda _ | .ldx _ | .ldy _ | .tax | .tay | .txa | .tya | .tsx | .txs | .adc _ | .sbc _ | .and _ | .ora _
  | .eor _ | .bit _ | .cmp _ | .cpx _ | .cpy _ | .aslAcc | .lsrAcc | .rolAcc | .rorAcc | .inx | .iny | .dex
  | .dey | .jmp _ | .jmpInd _ | .rts | .bcc _ | .bcs _ | .beq _ | .bne _ | .bmi _ | .bpl _ | .bvc _ | .bvs _
  | .pla | .plp | .clc | .sec | .cli | .sei | .clv | .cld | .sed | .nop | .rti | .lax _ => []

/-- The 53 undefined opcode bytes as 30_encoding.md R90 lists them. -/
def undefinedOpcodes : List Byte :=
  [0x02, 0x04, 0x0B, 0x0C, 0x12, 0x14, 0x1A, 0x1C, 0x22, 0x2B, 0x32, 0x34, 0x3A, 0x3C, 0x42, 0x44, 0x4B, 0x52] ++
  [0x54, 0x5A, 0x5C, 0x62, 0x64, 0x6B, 0x72, 0x74, 0x7A, 0x7C, 0x80, 0x82, 0x89, 0x8B, 0x92, 0x93, 0x9B, 0x9C] ++
  [0x9E, 0x9F, 0xAB, 0xB2, 0xBB, 0xC2, 0xCB, 0xD2, 0xD4, 0xDA, 0xDC, 0xE2, 0xEB, 0xF2, 0xF4, 0xFA, 0xFC]

end Sys2Proof.Machine

namespace Sys2Proof

/-- The writers of A (10_state.md R21). -/
def Instr.writesA : Instr → Bool
  | .lda _ | .txa | .tya | .pla | .adc _ | .sbc _ | .and _ | .ora _ | .eor _
  | .aslAcc | .lsrAcc | .rolAcc | .rorAcc | .lax _ | .isb _ | .slo _ | .rla _ | .sre _ | .rra _ => true
  | .ldx _ | .ldy _ | .sta _ | .stx _ | .sty _ | .tax | .tay | .tsx | .txs | .bit _ | .cmp _ | .cpx _ | .cpy _
  | .asl _ | .lsr _ | .rol _ | .ror _ | .inc _ | .dec _ | .inx | .iny | .dex | .dey | .jmp _ | .jmpInd _
  | .jsr _ | .rts | .bcc _ | .bcs _ | .beq _ | .bne _ | .bmi _ | .bpl _ | .bvc _ | .bvs _ | .pha | .php | .plp
  | .clc | .sec | .cli | .sei | .clv | .cld | .sed | .nop | .brk | .rti | .sax _ | .dcp _ => false

/-- The writers of X (10_state.md R22). -/
def Instr.writesX : Instr → Bool
  | .ldx _ | .tax | .tsx | .inx | .dex | .lax _ => true
  | .lda _ | .ldy _ | .sta _ | .stx _ | .sty _ | .tay | .txa | .tya | .txs | .adc _ | .sbc _ | .and _ | .ora _
  | .eor _ | .bit _ | .cmp _ | .cpx _ | .cpy _ | .aslAcc | .asl _ | .lsrAcc | .lsr _ | .rolAcc | .rol _
  | .rorAcc | .ror _ | .inc _ | .dec _ | .iny | .dey | .jmp _ | .jmpInd _ | .jsr _ | .rts | .bcc _ | .bcs _
  | .beq _ | .bne _ | .bmi _ | .bpl _ | .bvc _ | .bvs _ | .pha | .php | .pla | .plp | .clc | .sec | .cli
  | .sei | .clv | .cld | .sed | .nop | .brk | .rti | .sax _ | .dcp _ | .isb _ | .slo _ | .rla _ | .sre _
  | .rra _ => false

/-- The writers of Y (10_state.md R23). -/
def Instr.writesY : Instr → Bool
  | .ldy _ | .tay | .iny | .dey => true
  | .lda _ | .ldx _ | .sta _ | .stx _ | .sty _ | .tax | .txa | .tya | .tsx | .txs | .adc _ | .sbc _ | .and _
  | .ora _ | .eor _ | .bit _ | .cmp _ | .cpx _ | .cpy _ | .aslAcc | .asl _ | .lsrAcc | .lsr _ | .rolAcc
  | .rol _ | .rorAcc | .ror _ | .inc _ | .dec _ | .inx | .dex | .jmp _ | .jmpInd _ | .jsr _ | .rts | .bcc _
  | .bcs _ | .beq _ | .bne _ | .bmi _ | .bpl _ | .bvc _ | .bvs _ | .pha | .php | .pla | .plp | .clc | .sec
  | .cli | .sei | .clv | .cld | .sed | .nop | .brk | .rti | .lax _ | .sax _ | .dcp _ | .isb _ | .slo _
  | .rla _ | .sre _ | .rra _ => false

/-- The users of the stack engine, and TXS (47_stack_flags_system.md R274). -/
def Instr.movesSP : Instr → Bool
  | .jsr _ | .rts | .rti | .brk | .pha | .php | .pla | .plp | .txs => true
  | .lda _ | .ldx _ | .ldy _ | .sta _ | .stx _ | .sty _ | .tax | .tay | .txa | .tya | .tsx | .adc _ | .sbc _
  | .and _ | .ora _ | .eor _ | .bit _ | .cmp _ | .cpx _ | .cpy _ | .aslAcc | .asl _ | .lsrAcc | .lsr _
  | .rolAcc | .rol _ | .rorAcc | .ror _ | .inc _ | .dec _ | .inx | .iny | .dex | .dey | .jmp _ | .jmpInd _
  | .bcc _ | .bcs _ | .beq _ | .bne _ | .bmi _ | .bpl _ | .bvc _ | .bvs _ | .clc | .sec | .cli | .sei | .clv
  | .cld | .sed | .nop | .lax _ | .sax _ | .dcp _ | .isb _ | .slo _ | .rla _ | .sre _ | .rra _ => false

/-- The instructions that end with something else than `PC + len` (46_control_flow.md, 47_stack_flags_system.md). -/
def Instr.transfersControl : Instr → Bool
  | .jmp _ | .jmpInd _ | .jsr _ | .rts | .rti | .brk
  | .bcc _ | .bcs _ | .beq _ | .bne _ | .bmi _ | .bpl _ | .bvc _ | .bvs _ => true
  | .lda _ | .ldx _ | .ldy _ | .sta _ | .stx _ | .sty _ | .tax | .tay | .txa | .tya | .tsx | .txs | .adc _
  | .sbc _ | .and _ | .ora _ | .eor _ | .bit _ | .cmp _ | .cpx _ | .cpy _ | .aslAcc | .asl _ | .lsrAcc
  | .lsr _ | .rolAcc | .rol _ | .rorAcc | .ror _ | .inc _ | .dec _ | .inx | .iny | .dex | .dey | .pha | .php
  | .pla | .plp | .clc | .sec | .cli | .sei | .clv | .cld | .sed | .nop | .lax _ | .sax _ | .dcp _ | .isb _
  | .slo _ | .rla _ | .sre _ | .rra _ => false

/-- The instructions of the N and Z columns of 10_state.md R44. -/
def Instr.writesNZ : Instr → Bool
  | .lda _ | .ldx _ | .ldy _ | .lax _ | .tax | .tay | .txa | .tya | .tsx | .pla
  | .and _ | .ora _ | .eor _ | .inc _ | .dec _ | .inx | .iny | .dex | .dey
  | .adc _ | .rra _ | .sbc _ | .isb _ | .cmp _ | .cpx _ | .cpy _ | .dcp _
  | .asl _ | .aslAcc | .slo _ | .lsr _ | .lsrAcc | .sre _ | .rol _ | .rolAcc | .rla _ | .ror _ | .rorAcc
  | .bit _ | .plp | .rti => true
  | .sta _ | .stx _ | .sty _ | .txs | .jmp _ | .jmpInd _ | .jsr _ | .rts | .bcc _ | .bcs _ | .beq _ | .bne _
  | .bmi _ | .bpl _ | .bvc _ | .bvs _ | .pha | .php | .clc | .sec | .cli | .sei | .clv | .cld | .sed | .nop
  | .brk | .sax _ => false

/-- The instructions of the V column of 10_state.md R44. -/
def Instr.writesV : Instr → Bool
  | .adc _ | .rra _ | .sbc _ | .isb _ | .bit _ | .clv | .plp | .rti => true
  | .lda _ | .ldx _ | .ldy _ | .sta _ | .stx _ | .sty _ | .tax | .tay | .txa | .tya | .tsx | .txs | .and _
  | .ora _ | .eor _ | .cmp _ | .cpx _ | .cpy _ | .aslAcc | .asl _ | .lsrAcc | .lsr _ | .rolAcc | .rol _
  | .rorAcc | .ror _ | .inc _ | .dec _ | .inx | .iny | .dex | .dey | .jmp _ | .jmpInd _ | .jsr _ | .rts
  | .bcc _ | .bcs _ | .beq _ | .bne _ | .bmi _ | .bpl _ | .bvc _ | .bvs _ | .pha | .php | .pla | .clc | .sec
  | .cli | .sei | .cld | .sed | .nop | .brk | .lax _ | .sax _ | .dcp _ | .slo _ | .rla _ | .sre _ => false

/-- The instructions of the D column of 10_state.md R44. -/
def Instr.writesD : Instr → Bool
  | .cld | .sed | .plp | .rti => true
  | .lda _ | .ldx _ | .ldy _ | .sta _ | .stx _ | .sty _ | .tax | .tay | .txa | .tya | .tsx | .txs | .adc _
  | .sbc _ | .and _ | .ora _ | .eor _ | .bit _ | .cmp _ | .cpx _ | .cpy _ | .aslAcc | .asl _ | .lsrAcc
  | .lsr _ | .rolAcc | .rol _ | .rorAcc | .ror _ | .inc _ | .dec _ | .inx | .iny | .dex | .dey | .jmp _
  | .jmpInd _ | .jsr _ | .rts | .bcc _ | .bcs _ | .beq _ | .bne _ | .bmi _ | .bpl _ | .bvc _ | .bvs _ | .pha
  | .php | .pla | .clc | .sec | .cli | .sei | .clv | .nop | .brk | .lax _ | .sax _ | .dcp _ | .isb _ | .slo _
  | .rla _ | .sre _ | .rra _ => false

/-- The instructions of the I column of 10_state.md R44. -/
def Instr.writesI : Instr → Bool
  | .cli | .sei | .plp | .rti | .brk => true
  | .lda _ | .ldx _ | .ldy _ | .sta _ | .stx _ | .sty _ | .tax | .tay | .txa | .tya | .tsx | .txs | .adc _
  | .sbc _ | .and _ | .ora _ | .eor _ | .bit _ | .cmp _ | .cpx _ | .cpy _ | .aslAcc | .asl _ | .lsrAcc
  | .lsr _ | .rolAcc | .rol _ | .rorAcc | .ror _ | .inc _ | .dec _ | .inx | .iny | .dex | .dey | .jmp _
  | .jmpInd _ | .jsr _ | .rts | .bcc _ | .bcs _ | .beq _ | .bne _ | .bmi _ | .bpl _ | .bvc _ | .bvs _ | .pha
  | .php | .pla | .clc | .sec | .clv | .cld | .sed | .nop | .lax _ | .sax _ | .dcp _ | .isb _ | .slo _
  | .rla _ | .sre _ | .rra _ => false

/-- The instructions of the C column of 10_state.md R44. -/
def Instr.writesC : Instr → Bool
  | .adc _ | .rra _ | .sbc _ | .isb _ | .cmp _ | .cpx _ | .cpy _ | .dcp _
  | .asl _ | .aslAcc | .slo _ | .lsr _ | .lsrAcc | .sre _ | .rol _ | .rolAcc | .rla _ | .ror _ | .rorAcc
  | .clc | .sec | .plp | .rti => true
  | .lda _ | .ldx _ | .ldy _ | .sta _ | .stx _ | .sty _ | .tax | .tay | .txa | .tya | .tsx | .txs | .and _
  | .ora _ | .eor _ | .bit _ | .inc _ | .dec _ | .inx | .iny | .dex | .dey | .jmp _ | .jmpInd _ | .jsr _
  | .rts | .bcc _ | .bcs _ | .beq _ | .bne _ | .bmi _ | .bpl _ | .bvc _ | .bvs _ | .pha | .php | .pla | .cli
  | .sei | .clv | .cld | .sed | .nop | .brk | .lax _ | .sax _ => false

end Sys2Proof
end

