-- ==== Sys2Proof/Certificates/Slice0/Obligations.lean ====
section
/-! DEFINITION. The statements for the provers. Each docstring says which rules of spec/ it rests on; the same text is
in OBLIGATIONS.json. A rule the spec marks as its own decision or as general knowledge is cited by a 'derived'
statement. -/

open Sys2Proof Sys2Proof.Machine

/-- For every well-formed instruction, with every value of its operand bytes, encode gives as many bytes as the
instruction's length, and decode of those bytes followed by any bytes gives the instruction and the bytes after it.
(30_encoding.md R81, R83, R84, R85 to R88; 92_eei_decisions.md D1.) -/
def Obligations.DecodeReadsWhatEncodeWrites : Prop :=
  ∀ (i : Instr) (rest : List Byte), i.wellFormed = true →
    ∃ bytes, encode i = some bytes ∧ bytes.length = i.length ∧ decode (bytes ++ rest) = .ok (i, rest)

/-- If decode of a list of bytes gives an instruction and a rest, the instruction is well-formed and the list is the
instruction's encoding followed by the rest: each byte sequence has one meaning and each instruction one encoding.
(30_encoding.md R80, R82, R85 to R88; 41_addressing_modes.md R156.) -/
def Obligations.EncodeWritesWhatDecodeReads : Prop :=
  ∀ (bytes : List Byte) (i : Instr) (rest : List Byte), decode bytes = .ok (i, rest) →
    i.wellFormed = true ∧ ∃ own, encode i = some own ∧ bytes = own ++ rest

/-- The list has 53 values without repeats, and for every opcode byte followed by at least two bytes decode answers
undefinedOpcode of that byte exactly when the byte is one of the 53 that 30_encoding.md R90 lists; for every other
byte it answers an instruction. (30_encoding.md R85, R90; 92_eei_decisions.md D1.) -/
def Obligations.UndefinedOpcodesAreTheListed53 : Prop :=
  undefinedOpcodes.length = 53 ∧ undefinedOpcodes.Nodup ∧
    ∀ (op b1 b2 : Byte) (rest : List Byte),
      (op ∈ undefinedOpcodes → decode (op :: b1 :: b2 :: rest) = .error (.undefinedOpcode op)) ∧
      (op ∉ undefinedOpcodes → ∃ i tail, decode (op :: b1 :: b2 :: rest) = .ok (i, tail))

/-- Eight byte sequences of 95_test_vectors.md, one or more for each format, decode to the instruction the spec writes
beside them. (30_encoding.md R81, R86; 95_test_vectors.md programs P1 to P6.) -/
def Obligations.WordsOfTheSpecDecode : Prop :=
  decode [0xA9, 0x00] = .ok (.lda (.imm 0x00), []) ∧
    decode [0x91, 0x20] = .ok (.sta (.indy 0x20), []) ∧
    decode [0x20, 0x20, 0x80] = .ok (.jsr 0x8020, []) ∧
    decode [0x6C, 0xFF, 0x02] = .ok (.jmpInd 0x02FF, []) ∧
    decode [0xD0, 0xF9] = .ok (.bne 0xF9, []) ∧
    decode [0x4A] = .ok (.lsrAcc, []) ∧
    decode [0xBD, 0xFB, 0x40] = .ok (.lda (.absx 0x40FB), []) ∧
    decode [0x23, 0x20] = .ok (.rla (.indx 0x20), [])

/-- In a state in which the next call reaches the fetch, if the bytes at PC decode to an instruction i, step is exec of
i at the state after the sampling and the fetch: the access log is cleared, the instruction's own bytes are read in
address order and noted, and nothing else changes but what sampling the input lines changes where the core has them:
NmiLatch, NmiPrev and, in the form of assumption log 3, the list of samples. Then PendingCycles becomes the row's
cycles minus 1 and the call returns ran with that count. (42_execution_engine.md R163, R168, R169, R170;
20_memory.md R63; 60_exceptions.md R306; 92_eei_decisions.md D7; notes/assumptions/3.md.) -/
def Obligations.StepRunsTheDecodedInstruction : Prop :=
  ∀ (s : State) (i : Instr) (rest : List Byte), s.Ready → decode s.bytesAtPC = .ok (i, rest) →
    let own := s.mem.readAll ((List.range i.length).map fun k => s.pc + BitVec.ofNat 16 k)
    ∃ row, lookupOpcode (s.byteAt s.pc) = some row ∧
      step s =
        match exec i (s.beginTick.afterMoves own) with
        | .next t => .next { t with pendingCycles := row.cycles - 1, result := some (.ran row.cycles) }
        | .fault r => .fault r
        | .refused r => .refused r

/-- With PendingCycles above 0 (in Halted or not), step returns no-op-this-tick, PendingCycles is one less, no memory
access is made (the access log is empty), and nothing else changes but what sampling the input lines changes where
the core has them: NmiLatch, NmiPrev and, in the form of assumption log 3, the list of samples.
(42_execution_engine.md R161; 60_exceptions.md R306; 92_eei_decisions.md D7; notes/assumptions/3.md.) -/
def Obligations.DrainingTickOnlyCountsDown : Prop :=
  ∀ s : State, s.started = true → s.pendingCycles > 0 →
    step s = .next { s.sampleLines with
      pendingCycles := s.pendingCycles - 1, bus := [], result := some .noOpThisTick }

/-- With no cycles pending and the engine Halted, step returns halted, makes no memory access and changes no register,
flag, memory cell or engine bit; the input lines, where the core has them, are sampled, which changes NmiLatch,
NmiPrev and, in the form of assumption log 3, the list of samples. The next state meets the same conditions, so
every later step does the same. That no cause is reported with it is the model's choice (assumption log 4).
(42_execution_engine.md R162; 60_exceptions.md R306; 92_eei_decisions.md D7; notes/assumptions/3.md;
notes/assumptions/4.md.) -/
def Obligations.HaltedStepChangesNothing : Prop :=
  ∀ s : State, s.started = true → s.pendingCycles = 0 → s.halted = true →
    let t : State := { s.sampleLines with bus := [], result := some (.halted none) }
    step s = .next t ∧ t.started = true ∧ t.pendingCycles = 0 ∧ t.halted = true

/-- From a Halted state with no cycles pending, for every number k of steps the run of k steps answers a state that is
Halted, with the same A, X, Y, SP, PC, flags, PendingCycles, memory and parameters, and if k is not 0 the last call
made no access and returned halted with no cause. That no cause is reported is the model's choice (assumption log
4); that reset(), which leaves Halted, is a call of the driver and no case of step is DEDUCED (assumption log 15).
(42_execution_engine.md R162, R173; 60_exceptions.md R311, R320; notes/assumptions/4.md; notes/assumptions/15.md.) -/
def Obligations.HaltedNeverLeaves : Prop :=
  ∀ (k : Nat) (s : State), s.started = true → s.pendingCycles = 0 → s.halted = true →
    ∃ t : State, Host.Core.run Sys2Proof.core k s = .next t ∧
      t.halted = true ∧ t.pendingCycles = 0 ∧ t.started = true ∧ t.a = s.a ∧ t.x = s.x ∧ t.y = s.y ∧ t.sp = s.sp ∧
      t.pc = s.pc ∧ t.flags = s.flags ∧ t.mem = s.mem ∧ t.cfg = s.cfg ∧
      (k ≠ 0 → t.bus = [] ∧ t.result = some (.halted none))

/-- In Idle-fetch with PC equal to HALT_ADDR, step enters Halted, makes no access and changes nothing else but what
sampling the input lines changes where the core has them: NmiLatch, NmiPrev and, in the form of assumption log 3,
the list of samples. That the call reports the cause HaltAddressReached is the model's choice (assumption log 4).
(42_execution_engine.md R164; 60_exceptions.md R306; 92_eei_decisions.md D7, D12; notes/assumptions/3.md;
notes/assumptions/4.md.) -/
def Obligations.HaltAddressHaltsBeforeTheFetch : Prop :=
  ∀ s : State, s.started = true → s.pendingCycles = 0 → s.halted = false → s.cfg.haltAddr = some s.pc →
    step s = .next { s.sampleLines with
      halted := true, bus := [], result := some (.halted (some .haltAddressReached)) }

/-- When step reaches the fetch and the byte at PC has no row, PC becomes PC + 1 modulo 65536, the engine enters Halted,
the call returns halted with cause UndecodableOpcode, the one access is the read of the opcode byte, and nothing
else changes but what sampling the input lines changes where the core has them: NmiLatch, NmiPrev and, in the form
of assumption log 3, the list of samples. (Where the opcode byte is in a device's range, the platform after its read
is the device's answer.) (42_execution_engine.md R165; 60_exceptions.md R306; 92_eei_decisions.md D7;
notes/assumptions/3.md.) -/
def Obligations.UndefinedOpcodeHalts : Prop :=
  ∀ s : State, s.Ready → lookupOpcode (s.byteAt s.pc) = none →
    step s = .next { s.sampleLines with
      pc := s.pc + 1, halted := true, mem := (s.mem.read s.pc).2, bus := [.read s.pc (s.byteAt s.pc)],
      result := some (.halted (some .undecodableOpcode)) }

/-- Before the first reset() step returns halted and changes no state. That the cause NullProgramCounter is reported
with it and that the lines are not sampled are the model's choices (assumption log 4 and 11).
(42_execution_engine.md R175; 60_exceptions.md R302; 92_eei_decisions.md D6; notes/assumptions/4.md;
notes/assumptions/11.md.) -/
def Obligations.StepBeforeResetIsHalted : Prop :=
  ∀ s : State, s.started = false →
    step s = .next { s with bus := [], result := some (.halted (some .nullProgramCounter)) }

/-- For every state, reachable or not, step answers a next state, never a fault or a refusal, and that state holds the
result the call returns. (R305.) -/
def Obligations.StepAlwaysAnswersAState : Prop :=
  ∀ s : State, ∃ (t : State) (r : StepResult), step s = .next t ∧ t.result = some r

/-- With no interrupt inputs, from a state that reaches the fetch of a populated opcode with c cycles, the first call of
step returns ran with count c and gives a state t that holds the whole effect, and the run of c calls gives t with
PendingCycles 0 (and the result and the empty access log of the last draining call), so that the tick level computes
the same architectural states as the instruction level. (42_execution_engine.md R161, R163, R168, R171;
70_reset_and_hazards.md R345.) -/
def Obligations.InstructionTakesItsCyclesInTicks : Prop :=
  ∀ (s : State) (row : Row), s.Ready → s.cfg.hasInterruptInputs = false → lookupOpcode (s.byteAt s.pc) = some row →
    ∃ t : State, step s = .next t ∧ t.result = some (.ran row.cycles) ∧
      Host.Core.run Sys2Proof.core row.cycles s =
        .next { t with pendingCycles := 0, bus := [], result := some .noOpThisTick }

/-- With interrupt inputs, on every call after reset NmiPrev becomes the sample of nmi_line, one sample is consumed, and
NmiLatch is clear if the call is an NMI entry (Idle-fetch, PC not HALT_ADDR, the latch set or a rising edge
sampled), and if it is not, set on a rising edge and otherwise as before; without interrupt inputs none of them
changes. That samples come from a list in State is the model's form of the inputs (assumption log 3).
(60_exceptions.md R306, R307, R308; 92_eei_decisions.md D7; notes/assumptions/3.md.) -/
def Obligations.LinesAreSampledOnEveryCall : Prop :=
  ∀ s : State, s.started = true →
    let pending : Bool := s.nmiLatch || (s.lines.nmi && !s.nmiPrev)
    let nmiEntry : Prop := s.pendingCycles = 0 ∧ s.halted = false ∧ s.cfg.haltAddr ≠ some s.pc ∧ pending = true
    ∃ t : State, step s = .next t ∧
      (s.cfg.hasInterruptInputs = true →
        t.nmiPrev = s.lines.nmi ∧ t.inputs = s.inputs.tail ∧
          t.nmiLatch = if nmiEntry then false else pending) ∧
      (s.cfg.hasInterruptInputs = false →
        t.nmiPrev = s.nmiPrev ∧ t.inputs = s.inputs ∧ t.nmiLatch = s.nmiLatch)

/-- In Idle-fetch with interrupt inputs, with NmiLatch set or a rising edge sampled in this call, step pushes PC high,
PC low and the status with bit 4 clear and bit 5 set, sets I, clears NmiLatch, loads PC from 0xFFFA, banks 6 cycles
and returns ran with count 7; no opcode is fetched, the platform is as the five accesses leave it, and nothing else
changes but what sampling the input lines changes where the core has them: NmiLatch, NmiPrev and, in the form of
assumption log 3, the list of samples. (60_exceptions.md R306, R307, R308, R310; 92_eei_decisions.md D7;
93_implementation_defined.md G5; notes/assumptions/3.md.) -/
def Obligations.NmiEntryPushesAndVectors : Prop :=
  ∀ s : State, s.started = true → s.pendingCycles = 0 → s.halted = false → s.cfg.haltAddr ≠ some s.pc →
    s.cfg.hasInterruptInputs = true → (s.nmiLatch || (s.lines.nmi && !s.nmiPrev)) = true →
    let ret := s.pc
    let m1 := s.mem.write (0x0100 + zext16 s.sp) (hiByte ret)
    let m2 := m1.write (0x0100 + zext16 (s.sp - 1)) (loByte ret)
    let m3 := m2.write (0x0100 + zext16 (s.sp - 2)) ((s.p &&& 0xEF) ||| 0x20)
    let handler := m3.readWord 0xFFFA 0xFFFB
    step s = .next { s.sampleLines with
      mem := handler.mem, sp := s.sp - 3, flags := { s.flags with i := true }, nmiLatch := false,
      pc := handler.value, pendingCycles := 6, result := some (.ran 7),
      bus := [.write (0x0100 + zext16 s.sp) (hiByte ret), .write (0x0100 + zext16 (s.sp - 1)) (loByte ret),
        .write (0x0100 + zext16 (s.sp - 2)) ((s.p &&& 0xEF) ||| 0x20)] ++ handler.accesses }

/-- In Idle-fetch with interrupt inputs, with no NMI pending or rising, irq_line asserted and I = 0, step pushes PC
high, PC low and the status with bit 4 clear and bit 5 set, sets I, loads PC from 0xFFFE, banks 6 cycles and returns
ran with count 7; no opcode is fetched, the platform is as the five accesses leave it, and nothing else changes but
what sampling the input lines changes where the core has them: NmiLatch, NmiPrev and, in the form of assumption log
3, the list of samples. (60_exceptions.md R306, R307, R308, R310; 92_eei_decisions.md D7;
93_implementation_defined.md G5; notes/assumptions/3.md.) -/
def Obligations.IrqEntryPushesAndVectors : Prop :=
  ∀ s : State, s.started = true → s.pendingCycles = 0 → s.halted = false → s.cfg.haltAddr ≠ some s.pc →
    s.cfg.hasInterruptInputs = true → (s.nmiLatch || (s.lines.nmi && !s.nmiPrev)) = false →
    s.lines.irq = true → s.flags.i = false →
    let ret := s.pc
    let m1 := s.mem.write (0x0100 + zext16 s.sp) (hiByte ret)
    let m2 := m1.write (0x0100 + zext16 (s.sp - 1)) (loByte ret)
    let m3 := m2.write (0x0100 + zext16 (s.sp - 2)) ((s.p &&& 0xEF) ||| 0x20)
    let handler := m3.readWord 0xFFFE 0xFFFF
    step s = .next { s.sampleLines with
      mem := handler.mem, sp := s.sp - 3, flags := { s.flags with i := true },
      pc := handler.value, pendingCycles := 6, result := some (.ran 7),
      bus := [.write (0x0100 + zext16 s.sp) (hiByte ret), .write (0x0100 + zext16 (s.sp - 1)) (loByte ret),
        .write (0x0100 + zext16 (s.sp - 2)) ((s.p &&& 0xEF) ||| 0x20)] ++ handler.accesses }

/-- In Idle-fetch with interrupt inputs, with no NMI pending or rising and irq_line not asserted or I = 1, the first
access of the step is the read of the opcode byte at PC. (60_exceptions.md R307, R311.) -/
def Obligations.MaskedOrAbsentIrqFetches : Prop :=
  ∀ s : State, s.started = true → s.pendingCycles = 0 → s.halted = false → s.cfg.haltAddr ≠ some s.pc →
    s.cfg.hasInterruptInputs = true → (s.nmiLatch || (s.lines.nmi && !s.nmiPrev)) = false →
    (s.lines.irq = false ∨ s.flags.i = true) →
    ∃ (t : State) (others : List Access), step s = .next t ∧ t.bus = .read s.pc (s.byteAt s.pc) :: others

/-- For every state, the access log after a call of step has at most six entries: the most any instruction makes (a
zero-page-indirect read-modify-write, or BRK). (20_memory.md R62, R63, R64; 60_exceptions.md R308.) -/
def Obligations.AtMostSixAccessesPerStep : Prop :=
  ∀ s t : State, step s = .next t → t.bus.length ≤ 6

/-- The byte array of the state after reset is in canonical form, PendingCycles is at most 7, and no cycles are pending
in Halted. (10_state.md R40, R43; 20_memory.md R72.) -/
def Obligations.ResetStateMeetsTheInvariant : Prop :=
  State.reset.Inv

/-- From every state that meets the invariant, reachable or not, whatever step answers meets it: memory in canonical
form over 65536 addresses, PendingCycles at most 7, and PendingCycles 0 when Halted. (10_state.md R40;
42_execution_engine.md R161, R164, R165, R168; 20_memory.md R50.) -/
def Obligations.StepKeepsTheInvariant : Prop :=
  ∀ s t : State, s.Inv → step s = .next t → t.Inv

/-- Whatever the state before, reset() gives a state that meets the invariant, provided memory is in canonical form.
(70_reset_and_hazards.md R331, R332.) -/
def Obligations.ResetKeepsTheInvariant : Prop :=
  ∀ s : State, s.mem.ram.wf = true → s.resetCore.Inv

/-- Whatever a step does (instruction, interrupt entry, halt or drain), the stored B flag, the parameters of the core
and the hook table of the platform are as before: B keeps its reset value in every run. That no step changes the
hook table is the model's choice (assumption log 7). (10_state.md R30, R42; 00_scope.md R5; 20_memory.md R52;
notes/assumptions/7.md.) -/
def Obligations.StepKeepsBreakFlagAndParameters : Prop :=
  ∀ s t : State, step s = .next t → t.flags.b = s.flags.b ∧ t.cfg = s.cfg ∧ t.mem.hooks = s.mem.hooks ∧
    t.started = s.started

/-- From every state, reset() reads 0xFFFC then 0xFFFD, sets PC to that word, SP to 0xFD, the packed status to 0x24,
PendingCycles to 0, leaves Halted, clears the NMI bits when there are interrupt inputs, and leaves A, X, Y, the byte
array, the hook table and the parameters unchanged (a device hooked at the vector is read, no more). The flags other
than I, PendingCycles and leaving Halted are DEDUCED (assumption log 9); the hook table, the started bit and the
access log holding the two reads are the model's choices (assumption log 7, 11 and 14). (70_reset_and_hazards.md
R331, R332; 10_state.md R43; 92_eei_decisions.md D5, D28; notes/assumptions/7.md; notes/assumptions/9.md;
notes/assumptions/11.md; notes/assumptions/14.md.) -/
def Obligations.ResetSequence : Prop :=
  ∀ s : State,
    let entry := s.mem.readWord 0xFFFC 0xFFFD
    s.resetCore.pc = entry.value ∧ s.resetCore.sp = 0xFD ∧ s.resetCore.p = 0x24 ∧
      s.resetCore.pendingCycles = 0 ∧ s.resetCore.engine = .idleFetch ∧ s.resetCore.started = true ∧
      s.resetCore.a = s.a ∧ s.resetCore.x = s.x ∧ s.resetCore.y = s.y ∧ s.resetCore.cfg = s.cfg ∧
      s.resetCore.mem = entry.mem ∧ s.resetCore.mem.ram = s.mem.ram ∧ s.resetCore.mem.hooks = s.mem.hooks ∧
      s.resetCore.bus = entry.accesses ∧
      (s.cfg.hasInterruptInputs = true → s.resetCore.nmiLatch = false ∧ s.resetCore.nmiPrev = false)

/-- The state after reset equals reset() applied to the power-on state with default parameters, flat RAM included, and
no byte listed in it. That an unlisted byte reads as zero and that the default device's number is 0 are the model's
choices (assumption log 1 and 7). (10_state.md R43; 70_reset_and_hazards.md R331, R336; 92_eei_decisions.md D5.) -/
def Obligations.ResetStateIsPowerOnThenReset : Prop :=
  State.reset = (State.powerOn Config.defaults (Platform.flat [])).resetCore

/-- At the widths 8 and 16 and for every integer n, negative included, the constructed pattern is n modulo 2^N, adding
any multiple of 2^N to n does not change it, and the value it stands for is that residue if unsigned and, if signed,
the residue minus 2^N when it is at least 2^(N-1). (R101.) -/
def Obligations.FixedWidthConstructionTruncates : Prop :=
  ∀ w : Nat, w = 8 ∨ w = 16 → ∀ n k : Int,
    let v : BitVec w := FixedWidth.construct n
    (v.toNat : Int) = n % 2 ^ w ∧ FixedWidth.construct (n + k * 2 ^ w) = v ∧ FixedWidth.value false v = n % 2 ^ w ∧
      FixedWidth.value true v = if n % 2 ^ w < 2 ^ (w - 1) then n % 2 ^ w else n % 2 ^ w - 2 ^ w

/-- For all operands and carry-in, the result is the sum modulo 256, carry is the sum exceeding 0xFF, overflow is the
sign-bit formula, N is bit 7 and Z is the result being 0; and, which R121 marks as derived from the formula,
overflow holds exactly when the signed sum lies outside -128 to 127. (40_fixed_width_alu.md R121.) -/
def Obligations.AdditionFormula : Prop :=
  ∀ (a m : Byte) (c : Bool),
    let sum := a.toNat + m.toNat + c.toNat
    let o := aluAdc a m c
    o.r.toNat = sum % 256 ∧ (o.c = true ↔ sum > 0xFF) ∧
      (o.v = true ↔ (a ^^^ m) &&& 0x80 = 0 ∧ (a ^^^ o.r) &&& 0x80 ≠ 0) ∧
      (o.v = true ↔ ¬ (-128 ≤ a.toInt + m.toInt + (c.toNat : Int) ∧ a.toInt + m.toInt + (c.toNat : Int) ≤ 127)) ∧
      o.n = o.r.getLsbD 7 ∧ (o.z = true ↔ o.r = 0)

/-- For every A, M and carry, the subtraction function and the addition function of the bitwise complement of M agree in
result, carry, overflow, N and Z. (40_fixed_width_alu.md R122; 95_test_vectors.md T2.) -/
def Obligations.SubtractionIsAdditionOfComplement : Prop :=
  ∀ (a m : Byte) (c : Bool), aluSbc a m c = aluAdc a (~~~m) c

/-- For all operands and carry-in, the result is A - M - (1 - carry) modulo 256, carry is A >= M + (1 - carry) over the
integers, overflow is the sign-bit formula, N is bit 7 and Z is the result being 0. (40_fixed_width_alu.md R122.) -/
def Obligations.SubtractionFormula : Prop :=
  ∀ (a m : Byte) (c : Bool),
    let borrow : Nat := 1 - c.toNat
    let o := aluSbc a m c
    (o.r.toNat : Int) = ((a.toNat : Int) - m.toNat - borrow) % 256 ∧ (o.c = true ↔ m.toNat + borrow ≤ a.toNat) ∧
      (o.v = true ↔ (a ^^^ m) &&& 0x80 ≠ 0 ∧ (a ^^^ o.r) &&& 0x80 ≠ 0) ∧
      o.n = o.r.getLsbD 7 ∧ (o.z = true ↔ o.r = 0)

/-- For every register value and operand, carry is the unsigned comparison, N is bit 7 of the difference modulo 256, Z
holds exactly when that difference is 0, equivalently when the two are equal; comparing a value with itself gives
zero true, negative false, carry true. (R127.) -/
def Obligations.CompareFormula : Prop :=
  ∀ reg m : Byte,
    let d : Byte := BitVec.ofInt 8 ((reg.toNat : Int) - m.toNat)
    ((aluCmp reg m).c = true ↔ reg.toNat ≥ m.toNat) ∧ (aluCmp reg m).n = d.getLsbD 7 ∧
      ((aluCmp reg m).z = true ↔ d = 0) ∧ ((aluCmp reg m).z = true ↔ reg = m) ∧
      aluCmp reg reg = { c := true, n := false, z := true }

/-- For all seven flags the packed byte as an unsigned number is N*128 + V*64 + 32 + B*16 + D*8 + I*4 + Z*2 + C, every
byte with bit 5 set is the packed byte of some flags, and after reset it is 0x24 (decision D5, which assumption log
9 carries as DEDUCED). (10_state.md R36; 92_eei_decisions.md D5; notes/assumptions/9.md.) -/
def Obligations.PackedStatusLayout : Prop :=
  (∀ f : Flags, f.pack.toNat =
      f.n.toNat * 128 + f.v.toNat * 64 + 32 + f.b.toNat * 16 + f.d.toNat * 8 + f.i.toNat * 4 + f.z.toNat * 2 + f.c.toNat) ∧
    (∀ b : Byte, b.getLsbD 5 = true → ∃ f : Flags, f.pack = b) ∧ State.reset.p = 0x24

/-- Unpack of a byte takes N, V, B, D, I, Z, C from bits 7, 6, 4, 3, 2, 1, 0; unpacking a packed status gives the same
seven flags; and packing what was unpacked from a byte gives that byte with bit 5 set. (R37.) -/
def Obligations.StatusCodecRoundTrips : Prop :=
  (∀ b : Byte, (Flags.unpack b).n = b.getLsbD 7 ∧ (Flags.unpack b).v = b.getLsbD 6 ∧ (Flags.unpack b).b = b.getLsbD 4 ∧
      (Flags.unpack b).d = b.getLsbD 3 ∧ (Flags.unpack b).i = b.getLsbD 2 ∧ (Flags.unpack b).z = b.getLsbD 1 ∧
      (Flags.unpack b).c = b.getLsbD 0) ∧
    (∀ f : Flags, Flags.unpack f.pack = f) ∧ ∀ b : Byte, (Flags.unpack b).pack = b ||| 0x20

/-- After UnpackPulled of a byte the packed status is (byte AND 0xCF) OR 0x20 OR (B * 16), with B as it was before.
(10_state.md R38; 92_eei_decisions.md D9.) -/
def Obligations.PulledStatusKeepsBreak : Prop :=
  ∀ (f : Flags) (b : Byte), (f.unpackPulled b).pack = (b &&& 0xCF) ||| 0x20 ||| BitVec.ofNat 8 (f.b.toNat * 16)

/-- In every state and for every operand form each of LDA, LDX, LDY and LAX answers the state in which its register
(LAX: A and X) is the operand, N is its bit 7, Z is it being 0, PC is past the instruction, the accesses are the
pointer reads and one data read (none for an immediate), the platform is as they leave it (unchanged where nothing
is hooked), and nothing else has changed. (43_load_store_transfer.md R180, R181, R182; 48_illegal_composites.md
R280; 41_addressing_modes.md R141 to R150, R154; 20_memory.md R52, R62, R63, R64.) -/
def Obligations.LoadsWriteRegisterAndNZ : Prop :=
  ∀ (op : Operand) (s : State),
    let w := s.loaded op
    let m := w.value
    let f := { s.flags with n := m.getLsbD 7, z := decide (m = 0) }
    let after : State := { s with mem := w.mem, pc := s.pc + BitVec.ofNat 16 op.length, bus := s.bus ++ w.accesses }
    exec (.lda op) s = .next { after with a := m, flags := f } ∧
      exec (.ldx op) s = .next { after with x := m, flags := f } ∧
      exec (.ldy op) s = .next { after with y := m, flags := f } ∧
      exec (.lax op) s = .next { after with a := m, x := m, flags := f } ∧
      (s.mem.hooks = [] → w.mem = s.mem)

/-- In every state and for every operand form STA, STX, STY and SAX answer the state after the pointer reads and one
write of A, X, Y or A AND X at the effective address, PC is past the instruction, and nothing else has changed;
where that address is in RAM the byte written is what it reads as afterwards, and where it is hooked to a device no
byte of RAM has changed, which is the model's choice (assumption log 7). (43_load_store_transfer.md R183, R184,
R185; 48_illegal_composites.md R281; 41_addressing_modes.md R142 to R150, R154; 20_memory.md R52, R62, R63, R64,
R65; notes/assumptions/7.md.) -/
def Obligations.StoresWriteOneByteAndNoFlag : Prop :=
  ∀ (op : Operand) (s : State),
    let ea := (s.effectiveAddress op).value
    let stored (v : Byte) : State :=
      { s with
        mem := (s.stored op v).mem, pc := s.pc + BitVec.ofNat 16 op.length, bus := s.bus ++ (s.stored op v).accesses }
    exec (.sta op) s = .next (stored s.a) ∧ exec (.stx op) s = .next (stored s.x) ∧
      exec (.sty op) s = .next (stored s.y) ∧ exec (.sax op) s = .next (stored (s.a &&& s.x)) ∧
      ∀ v : Byte, s.mem.ram.wf = true →
        (s.mem.hooked ea = false → ((s.stored op v).mem.read ea).1 = v) ∧
          (s.mem.hooked ea = true → (s.stored op v).mem.ram = s.mem.ram)

/-- In every state each transfer answers the state in which its destination holds the source's bit pattern, N and Z are
of that value (TXS: flags unchanged), PC is one further, no access is made, and nothing else has changed.
(43_load_store_transfer.md R186 to R191.) -/
def Obligations.TransfersCopyRegisters : Prop :=
  ∀ s : State,
    let nz (v : Byte) : Flags := { s.flags with n := v.getLsbD 7, z := decide (v = 0) }
    exec .tax s = .next { s with x := s.a, flags := nz s.a, pc := s.pc + 1 } ∧
      exec .tay s = .next { s with y := s.a, flags := nz s.a, pc := s.pc + 1 } ∧
      exec .txa s = .next { s with a := s.x, flags := nz s.x, pc := s.pc + 1 } ∧
      exec .tya s = .next { s with a := s.y, flags := nz s.y, pc := s.pc + 1 } ∧
      exec .tsx s = .next { s with x := s.sp, flags := nz s.sp, pc := s.pc + 1 } ∧
      exec .txs s = .next { s with sp := s.x, pc := s.pc + 1 }

/-- In every state (D set or clear) and for every operand form ADC and SBC answer the state with A the sum or difference
modulo 256, C the carry or the absence of a borrow, V the sign-bit overflow formula, N and Z of the result, PC past
the instruction, the accesses of a load and the platform as they leave it, and nothing else changed.
(44_arithmetic_logic.md R200, R201; 40_fixed_width_alu.md R121, R122; 10_state.md R33.) -/
def Obligations.AdcAndSbcWriteAccumulatorAndFlags : Prop :=
  ∀ (op : Operand) (s : State),
    let w := s.loaded op
    let m := w.value
    let result (r : Byte) (c v : Bool) : State :=
      { s with
        a := r, flags := { s.flags with c := c, v := v, n := r.getLsbD 7, z := decide (r = 0) }
        mem := w.mem, pc := s.pc + BitVec.ofNat 16 op.length, bus := s.bus ++ w.accesses }
    let sum := s.a + m + (if s.flags.c then 1 else 0)
    let diff := s.a - m - (if s.flags.c then 0 else 1)
    exec (.adc op) s = .next (result sum
        (decide (s.a.toNat + m.toNat + s.flags.c.toNat > 255))
        (decide ((s.a ^^^ m) &&& 0x80 = 0 ∧ (s.a ^^^ sum) &&& 0x80 ≠ 0))) ∧
      exec (.sbc op) s = .next (result diff
        (decide (m.toNat + (1 - s.flags.c.toNat) ≤ s.a.toNat))
        (decide ((s.a ^^^ m) &&& 0x80 ≠ 0 ∧ (s.a ^^^ diff) &&& 0x80 ≠ 0)))

/-- In every state and for every operand form AND, ORA and EOR answer the state with A the bitwise and, or, exclusive or
of A and the operand, N and Z of the result, C and V unchanged, PC past the instruction, the accesses of a load and
the platform as they leave it, and nothing else changed. (44_arithmetic_logic.md R202, R203, R204;
40_fixed_width_alu.md R129.) -/
def Obligations.LogicInstructionsWriteAccumulatorAndNZ : Prop :=
  ∀ (op : Operand) (s : State),
    let w := s.loaded op
    let m := w.value
    let result (r : Byte) : State :=
      { s with
        a := r, flags := { s.flags with n := r.getLsbD 7, z := decide (r = 0) }
        mem := w.mem, pc := s.pc + BitVec.ofNat 16 op.length, bus := s.bus ++ w.accesses }
    exec (.and op) s = .next (result (s.a &&& m)) ∧ exec (.ora op) s = .next (result (s.a ||| m)) ∧
      exec (.eor op) s = .next (result (s.a ^^^ m))

/-- In every state and for every operand form BIT sets Z from A AND m and N, V from bits 7 and 6 of m; CMP, CPX and CPY
set C to register >= m unsigned, N to bit 7 of the difference and Z to equality; registers and the other flags are
unchanged, PC is past the instruction and the accesses are those of a load, which store nothing: the platform is as
they leave it. (44_arithmetic_logic.md R205, R206, R207, R208; 40_fixed_width_alu.md R127, R128.) -/
def Obligations.BitAndComparesWriteOnlyFlags : Prop :=
  ∀ (op : Operand) (s : State),
    let w := s.loaded op
    let m := w.value
    let result (f : Flags) : State :=
      { s with
        flags := f, mem := w.mem, pc := s.pc + BitVec.ofNat 16 op.length, bus := s.bus ++ w.accesses }
    let compared (reg : Byte) : Flags :=
      { s.flags with c := decide (m ≤ reg), n := (reg - m).getLsbD 7, z := decide (reg = m) }
    exec (.bit op) s = .next (result
        { s.flags with z := decide (s.a &&& m = 0), n := m.getLsbD 7, v := m.getLsbD 6 }) ∧
      exec (.cmp op) s = .next (result (compared s.a)) ∧ exec (.cpx op) s = .next (result (compared s.x)) ∧
      exec (.cpy op) s = .next (result (compared s.y))

/-- In every state the four accumulator forms answer the state with A shifted or rotated (a zero or the old carry
entering), C the bit shifted out, N and Z of the new A, V unchanged, PC one further, no access, and nothing else
changed. (45_shift_incdec.md R220 to R223; 40_fixed_width_alu.md R123 to R126; 90_conflicts.md C1.) -/
def Obligations.AccumulatorShifts : Prop :=
  ∀ s : State,
    let result (r : Byte) (c : Bool) : State :=
      { s with a := r, flags := { s.flags with c := c, n := r.getLsbD 7, z := decide (r = 0) }, pc := s.pc + 1 }
    exec .aslAcc s = .next (result (s.a <<< 1) (s.a.getLsbD 7)) ∧
      exec .lsrAcc s = .next (result (s.a >>> 1) (s.a.getLsbD 0)) ∧
      exec .rolAcc s = .next (result ((s.a <<< 1) ||| (if s.flags.c then 1 else 0)) (s.a.getLsbD 7)) ∧
      exec .rorAcc s = .next (result ((s.a >>> 1) ||| (if s.flags.c then 0x80 else 0)) (s.a.getLsbD 0))

/-- In every state and for every operand form the four memory forms answer the state after one read and one write at the
effective address, of the byte read shifted or rotated, with C the bit shifted out, N and Z of the new byte, A and V
unchanged, PC past the instruction, the pointer reads before the two accesses, the platform as all of them leave it,
and nothing else changed. (45_shift_incdec.md R220 to R223; 40_fixed_width_alu.md R123 to R126;
41_addressing_modes.md R154; 20_memory.md R62.) -/
def Obligations.MemoryShifts : Prop :=
  ∀ (op : Operand) (s : State),
    let old := (s.operandInMemory op).value
    let result (r : Byte) (c : Bool) : State :=
      { s with
        mem := (s.modified op r).mem, flags := { s.flags with c := c, n := r.getLsbD 7, z := decide (r = 0) }
        pc := s.pc + BitVec.ofNat 16 op.length, bus := s.bus ++ (s.modified op r).accesses }
    exec (.asl op) s = .next (result (old <<< 1) (old.getLsbD 7)) ∧
      exec (.lsr op) s = .next (result (old >>> 1) (old.getLsbD 0)) ∧
      exec (.rol op) s = .next (result ((old <<< 1) ||| (if s.flags.c then 1 else 0)) (old.getLsbD 7)) ∧
      exec (.ror op) s = .next (result ((old >>> 1) ||| (if s.flags.c then 0x80 else 0)) (old.getLsbD 0))

/-- In every state INC and DEC (for every operand form) read the byte at the effective address once and write it back
plus or minus one modulo 256, after the pointer reads, INX, INY, DEX and DEY do the same to X or Y without an
access; N and Z are of the result, C and V are unchanged, PC is past the instruction, and nothing else has changed.
(45_shift_incdec.md R224 to R229; 40_fixed_width_alu.md R130.) -/
def Obligations.IncrementsAndDecrements : Prop :=
  ∀ (op : Operand) (s : State),
    let old := (s.operandInMemory op).value
    let nz (r : Byte) : Flags := { s.flags with n := r.getLsbD 7, z := decide (r = 0) }
    let memory (r : Byte) : State :=
      { s with
        mem := (s.modified op r).mem, flags := nz r
        pc := s.pc + BitVec.ofNat 16 op.length, bus := s.bus ++ (s.modified op r).accesses }
    exec (.inc op) s = .next (memory (old + 1)) ∧ exec (.dec op) s = .next (memory (old - 1)) ∧
      exec .inx s = .next { s with x := s.x + 1, flags := nz (s.x + 1), pc := s.pc + 1 } ∧
      exec .iny s = .next { s with y := s.y + 1, flags := nz (s.y + 1), pc := s.pc + 1 } ∧
      exec .dex s = .next { s with x := s.x - 1, flags := nz (s.x - 1), pc := s.pc + 1 } ∧
      exec .dey s = .next { s with y := s.y - 1, flags := nz (s.y - 1), pc := s.pc + 1 }

/-- In every state JMP absolute answers the state with PC its operand; JMP indirect answers the state with PC the word
whose low byte is at the pointer and whose high byte is at the next address of the pointer's own page (the start of
the same page when the pointer's low byte is 0xFF), after reading those two bytes in that order, the platform as the
reads leave it; nothing else changes. (46_control_flow.md R240, R241; 20_memory.md R59; 41_addressing_modes.md
R148.) -/
def Obligations.JumpsLoadPC : Prop :=
  ∀ (w : Word) (s : State),
    let next : Word := if w.toNat % 256 = 255 then BitVec.ofNat 16 (w.toNat - 255) else w + 1
    let target := s.mem.readWord w next
    exec (.jmp w) s = .next { s with pc := w } ∧
      exec (.jmpInd w) s = .next { s with
        pc := target.value, mem := target.mem, bus := s.bus ++ target.accesses }

/-- In every state JSR answers the state with PC its operand, the high byte of PC + 2 written at 0x0100 + SP and then
the low byte at 0x0100 + (SP - 1) modulo 256 of SP, SP lower by 2, and nothing else changed. (46_control_flow.md
R242; 47_stack_flags_system.md R258.) -/
def Obligations.CallPushesReturnAddressMinusOne : Prop :=
  ∀ (target : Word) (s : State),
    let ra := s.pc + 2
    exec (.jsr target) s = .next { s with
      pc := target, sp := s.sp - 2
      mem := (s.mem.write (0x0100 + zext16 s.sp) (hiByte ra)).write (0x0100 + zext16 (s.sp - 1)) (loByte ra)
      bus := s.bus ++ [.write (0x0100 + zext16 s.sp) (hiByte ra), .write (0x0100 + zext16 (s.sp - 1)) (loByte ra)] }

/-- In every state RTS answers the state with PC one past the word whose low byte is at 0x0100 + (SP + 1) and high byte
at 0x0100 + (SP + 2) (SP modulo 256), SP higher by 2, after the two reads in that order, and nothing else changed.
(46_control_flow.md R243; 47_stack_flags_system.md R259.) -/
def Obligations.ReturnPullsLowThenHigh : Prop :=
  ∀ s : State,
    let lo : Word := 0x0100 + zext16 (s.sp + 1)
    let hi : Word := 0x0100 + zext16 (s.sp + 2)
    let w := s.mem.readWord lo hi
    exec .rts s = .next { s with pc := w.value + 1, sp := s.sp + 2, mem := w.mem, bus := s.bus ++ w.accesses }

/-- In every state and for every offset byte each of the eight branches answers the state with only PC changed: PC + 2
plus the offset read as a signed number (modulo 65536) if its flag condition holds, PC + 2 if not.
(46_control_flow.md R244 to R252; 41_addressing_modes.md R151; 92_eei_decisions.md D27.) -/
def Obligations.BranchesFollowTheirFlag : Prop :=
  ∀ (off : Byte) (s : State),
    let taken : Word := BitVec.ofInt 16 ((s.pc.toNat : Int) + 2 + off.toInt)
    let go (cond : Bool) : State := { s with pc := if cond then taken else s.pc + 2 }
    exec (.bcc off) s = .next (go (!s.flags.c)) ∧ exec (.bcs off) s = .next (go s.flags.c) ∧
      exec (.bne off) s = .next (go (!s.flags.z)) ∧ exec (.beq off) s = .next (go s.flags.z) ∧
      exec (.bpl off) s = .next (go (!s.flags.n)) ∧ exec (.bmi off) s = .next (go s.flags.n) ∧
      exec (.bvc off) s = .next (go (!s.flags.v)) ∧ exec (.bvs off) s = .next (go s.flags.v)

/-- In every state PHA pushes A and PHP pushes the packed status with bits 4 and 5 set, at 0x0100 + SP, lowering SP; PLA
pulls into A with N and Z, PLP pulls into N, V, D, I, Z, C keeping B, from 0x0100 + (SP + 1), raising SP; PC is one
further and nothing else changes. (47_stack_flags_system.md R258 to R263; 10_state.md R38.) -/
def Obligations.StackInstructions : Prop :=
  ∀ s : State,
    let top : Word := 0x0100 + zext16 s.sp
    let pushed (v : Byte) : State :=
      { s with mem := s.mem.write top v, sp := s.sp - 1, pc := s.pc + 1, bus := s.bus ++ [.write top v] }
    let b := s.mem.readByte (0x0100 + zext16 (s.sp + 1))
    let v := b.value
    let pulled : State := { s with mem := b.mem, sp := s.sp + 1, pc := s.pc + 1, bus := s.bus ++ b.accesses }
    exec .pha s = .next (pushed s.a) ∧ exec .php s = .next (pushed (s.p ||| 0x30)) ∧
      exec .pla s = .next { pulled with a := v, flags := { s.flags with n := v.getLsbD 7, z := decide (v = 0) } } ∧
      exec .plp s = .next { pulled with
        flags := { n := v.getLsbD 7, v := v.getLsbD 6, b := s.flags.b, d := v.getLsbD 3,
                   i := v.getLsbD 2, z := v.getLsbD 1, c := v.getLsbD 0 } }

/-- In every state each flag instruction answers the state with its one flag written and PC one further, NOP with only
PC one further, without an access and with nothing else changed. (47_stack_flags_system.md R264 to R271.) -/
def Obligations.FlagInstructionsAndNop : Prop :=
  ∀ s : State,
    let wrote (f : Flags) : State := { s with flags := f, pc := s.pc + 1 }
    exec .clc s = .next (wrote { s.flags with c := false }) ∧ exec .sec s = .next (wrote { s.flags with c := true }) ∧
      exec .cli s = .next (wrote { s.flags with i := false }) ∧ exec .sei s = .next (wrote { s.flags with i := true }) ∧
      exec .clv s = .next (wrote { s.flags with v := false }) ∧ exec .cld s = .next (wrote { s.flags with d := false }) ∧
      exec .sed s = .next (wrote { s.flags with d := true }) ∧ exec .nop s = .next (wrote s.flags)

/-- In every state, whatever I is, BRK answers the state with the high byte of PC + 2, its low byte and the status OR
0x30 written downward from 0x0100 + SP, SP lower by 3 modulo 256, I set and every other flag (B and D included)
unchanged, PC the little-endian word then at 0xFFFE, five accesses in that order, and nothing else changed.
(47_stack_flags_system.md R272; 60_exceptions.md R309, R310; 92_eei_decisions.md D8.) -/
def Obligations.BreakEntersTheTrap : Prop :=
  ∀ s : State,
    let ra := s.pc + 2
    let m1 := s.mem.write (0x0100 + zext16 s.sp) (hiByte ra)
    let m2 := m1.write (0x0100 + zext16 (s.sp - 1)) (loByte ra)
    let m3 := m2.write (0x0100 + zext16 (s.sp - 2)) (s.p ||| 0x30)
    let handler := m3.readWord 0xFFFE 0xFFFF
    exec .brk s = .next { s with
      mem := handler.mem, sp := s.sp - 3, flags := { s.flags with i := true }
      pc := handler.value
      bus := s.bus ++ [.write (0x0100 + zext16 s.sp) (hiByte ra), .write (0x0100 + zext16 (s.sp - 1)) (loByte ra),
        .write (0x0100 + zext16 (s.sp - 2)) (s.p ||| 0x30)] ++ handler.accesses }

/-- In every state RTI answers the state with N, V, D, I, Z, C from the byte at 0x0100 + (SP + 1), B kept, PC the word
whose low byte is at 0x0100 + (SP + 2) and high byte at 0x0100 + (SP + 3), with nothing added, SP higher by 3 modulo
256, three reads in that order, and nothing else changed. (47_stack_flags_system.md R273; 60_exceptions.md R312;
10_state.md R38; 92_eei_decisions.md D9.) -/
def Obligations.ReturnFromInterruptRestores : Prop :=
  ∀ s : State,
    let a1 : Word := 0x0100 + zext16 (s.sp + 1)
    let a2 : Word := 0x0100 + zext16 (s.sp + 2)
    let a3 : Word := 0x0100 + zext16 (s.sp + 3)
    let status := s.mem.readByte a1
    let b := status.value
    let target := status.mem.readWord a2 a3
    exec .rti s = .next { s with
      flags := { n := b.getLsbD 7, v := b.getLsbD 6, b := s.flags.b, d := b.getLsbD 3,
                 i := b.getLsbD 2, z := b.getLsbD 1, c := b.getLsbD 0 }
      pc := target.value, sp := s.sp + 3, mem := target.mem, bus := s.bus ++ status.accesses ++ target.accesses }

/-- In every state and for every operand form DCP writes the decremented byte back and sets C, N, Z from comparing A
with it, A and V unchanged; ISB writes the incremented byte back and does what SBC of that byte does with the carry
of before; one read and one write after the pointer reads, the platform as they leave it, PC past the instruction,
nothing else changed. (48_illegal_composites.md R282, R283, R288; 40_fixed_width_alu.md R127, R122.) -/
def Obligations.DecrementCompareAndIncrementSubtract : Prop :=
  ∀ (op : Operand) (s : State),
    let old := (s.operandInMemory op).value
    let memory (r : Byte) : State :=
      { s with
        mem := (s.modified op r).mem, pc := s.pc + BitVec.ofNat 16 op.length
        bus := s.bus ++ (s.modified op r).accesses }
    let d := old - 1
    let u := old + 1
    let o := aluSbc s.a u s.flags.c
    exec (.dcp op) s = .next { memory d with
        flags := { s.flags with c := decide (d ≤ s.a), n := (s.a - d).getLsbD 7, z := decide (s.a = d) } } ∧
      exec (.isb op) s = .next { memory u with
        a := o.r, flags := { s.flags with c := o.c, v := o.v, n := o.n, z := o.z } }

/-- In every state and for every operand form SLO, RLA and SRE write the shifted byte back, set C to the bit shifted out
and A, N, Z to A OR, AND, EOR the new byte; RRA writes the rotated byte back and does what ADC of that byte does
with the bit rotated out as carry-in; one read and one write after the pointer reads, the platform as they leave it,
PC past the instruction, nothing else changed. (48_illegal_composites.md R284, R285, R286, R287, R288;
40_fixed_width_alu.md R121, R123 to R126, R129.) -/
def Obligations.ShiftAndCombineComposites : Prop :=
  ∀ (op : Operand) (s : State),
    let old := (s.operandInMemory op).value
    let memory (r : Byte) : State :=
      { s with
        mem := (s.modified op r).mem, pc := s.pc + BitVec.ofNat 16 op.length
        bus := s.bus ++ (s.modified op r).accesses }
    let combined (r a' : Byte) (c : Bool) : State :=
      { memory r with a := a', flags := { s.flags with c := c, n := a'.getLsbD 7, z := decide (a' = 0) } }
    let asl := old <<< 1
    let rol := (old <<< 1) ||| (if s.flags.c then 1 else 0)
    let lsr := old >>> 1
    let ror := (old >>> 1) ||| (if s.flags.c then 0x80 else 0)
    let o := aluAdc s.a ror (old.getLsbD 0)
    exec (.slo op) s = .next (combined asl (s.a ||| asl) (old.getLsbD 7)) ∧
      exec (.rla op) s = .next (combined rol (s.a &&& rol) (old.getLsbD 7)) ∧
      exec (.sre op) s = .next (combined lsr (s.a ^^^ lsr) (old.getLsbD 0)) ∧
      exec (.rra op) s = .next { memory ror with
        a := o.r, flags := { s.flags with c := o.c, v := o.v, n := o.n, z := o.z } }

/-- When exec of any instruction answers a next state, A is unchanged unless the instruction is one of the writers of
R21, X unless of R22, Y unless of R23, and SP unless it is one of JSR, RTS, RTI, BRK, PHA, PHP, PLA, PLP, TXS.
(10_state.md R21, R22, R23, R24; 47_stack_flags_system.md R274.) -/
def Obligations.OnlyTheListedInstructionsWriteARegister : Prop :=
  ∀ (i : Instr) (s t : State), exec i s = .next t →
    (i.writesA = false → t.a = s.a) ∧ (i.writesX = false → t.x = s.x) ∧ (i.writesY = false → t.y = s.y) ∧
      (i.movesSP = false → t.sp = s.sp)

/-- When exec of any instruction answers a next state, N, Z, V, D, I and C are each unchanged unless the instruction
stands in that flag's column of 10_state.md R44, and the stored B is unchanged by every instruction. (10_state.md
R28 to R35, R44.) -/
def Obligations.OnlyTheListedInstructionsWriteAFlag : Prop :=
  ∀ (i : Instr) (s t : State), exec i s = .next t →
    (i.writesNZ = false → t.flags.n = s.flags.n ∧ t.flags.z = s.flags.z) ∧
      (i.writesV = false → t.flags.v = s.flags.v) ∧ (i.writesD = false → t.flags.d = s.flags.d) ∧
      (i.writesI = false → t.flags.i = s.flags.i) ∧ (i.writesC = false → t.flags.c = s.flags.c) ∧
      t.flags.b = s.flags.b

/-- When exec of any instruction answers a next state from canonical memory, the hook table is as before, the byte array
holds the same byte at every address that is not stored to or is stored to through a hook, and every address in RAM
outside the stored ones reads as before: the stored ones are the effective address of a store or read-modify-write,
the one stack byte of PHA or PHP, the two of JSR, the three of BRK, and none for every other instruction. That the
hook table does not change and that a store through a hook leaves the byte array alone are the model's choices
(assumption log 7). (20_memory.md R52, R62; 41_addressing_modes.md R154; 47_stack_flags_system.md R258;
notes/assumptions/7.md.) -/
def Obligations.MemoryChangesOnlyAtStoredAddresses : Prop :=
  ∀ (i : Instr) (s t : State), s.mem.ram.wf = true → exec i s = .next t →
    t.mem.hooks = s.mem.hooks ∧
      (∀ addr : Nat, (∀ w ∈ storedAddrs i s, w.toNat = addr → s.mem.hooked w = true) →
        t.mem.ram.read addr = s.mem.ram.read addr) ∧
      ∀ addr : Word, s.mem.hooked addr = false → addr ∉ storedAddrs i s → t.byteAt addr = s.byteAt addr

/-- When exec of any instruction answers a next state, PendingCycles, Halted, the started bit, the NMI bits, the
parameters, the inputs and the result are unchanged, the access log only grows, the platform has seen exactly the
accesses added to the log, in their order and each once, and an instruction that does not transfer control ends with
PC + its length modulo 65536. (42_execution_engine.md R163, R167; 10_state.md R40, R42; 20_memory.md R52, R61, R62.) -/
def Obligations.InstructionsLeaveEngineAndAdvancePC : Prop :=
  ∀ (i : Instr) (s t : State), exec i s = .next t →
    s.SameOutsideProgram t ∧ (∃ accs, t.bus = s.bus ++ accs ∧ s.mem.replay accs = some t.mem) ∧
      (i.transfersControl = false → t.pc = s.pc + BitVec.ofNat 16 i.length)

/-- For every instruction other than CLD, SED, PLP and RTI (which write D) and PHP and BRK (which push it), running it
with D replaced by any value gives the same next state with D replaced by that value: arithmetic is binary whatever
D holds. (10_state.md R33; 92_eei_decisions.md D15.) -/
def Obligations.DecimalFlagHasNoEffect : Prop :=
  ∀ (i : Instr) (s t : State) (d : Bool), i.writesD = false → i ≠ .php → i ≠ .brk → exec i s = .next t →
    exec i { s with flags := { s.flags with d := d } } = .next { t with flags := { t.flags with d := d } }

/-- From canonical memory with the stack slot in RAM (not hooked to a device), pushing any byte and pulling gives that
byte and the SP of before, whatever SP is (0x00 included), and leaves every byte of RAM outside the one stack slot
as before. (47_stack_flags_system.md R258, R259, R274; 20_memory.md R65; 70_reset_and_hazards.md R338.) -/
def Obligations.PullReturnsWhatWasPushed : Prop :=
  ∀ (s : State) (v : Byte), s.mem.ram.wf = true → s.mem.hooked (0x0100 + zext16 s.sp) = false →
    (s.push v).pull.1 = v ∧ (s.push v).pull.2.sp = s.sp ∧
      ∀ addr : Nat, addr ≠ 0x0100 + s.sp.toNat → (s.push v).pull.2.mem.ram.read addr = s.mem.ram.read addr

/-- From canonical memory with the two stack slots in RAM (not hooked to a device), JSR to any target followed by RTS
answers a state with PC = PC of the JSR + 3, the SP, A, X, Y and flags of before. (46_control_flow.md R242, R243,
R253; 20_memory.md R65; 70_reset_and_hazards.md R338.) -/
def Obligations.ReturnComesBackAfterTheCall : Prop :=
  ∀ (s t : State) (target : Word), s.mem.ram.wf = true →
    s.mem.hooked (0x0100 + zext16 s.sp) = false → s.mem.hooked (0x0100 + zext16 (s.sp - 1)) = false →
    exec (.jsr target) s = .next t →
    ∃ u : State, exec .rts t = .next u ∧ u.pc = s.pc + 3 ∧ u.sp = s.sp ∧ u.flags = s.flags ∧
      u.a = s.a ∧ u.x = s.x ∧ u.y = s.y

/-- From canonical memory with the three stack slots in RAM (not hooked to a device), BRK followed by RTI answers a
state with PC = PC of the BRK + 2 and the SP, A, X, Y and all seven flags (I included) of before.
(47_stack_flags_system.md R272, R273; 60_exceptions.md R309, R312; 70_reset_and_hazards.md R338.) -/
def Obligations.ReturnFromBreakRestoresState : Prop :=
  ∀ s t : State, s.mem.ram.wf = true →
    s.mem.hooked (0x0100 + zext16 s.sp) = false → s.mem.hooked (0x0100 + zext16 (s.sp - 1)) = false →
    s.mem.hooked (0x0100 + zext16 (s.sp - 2)) = false → exec .brk s = .next t →
    ∃ u : State, exec .rti t = .next u ∧ u.pc = s.pc + 2 ∧ u.sp = s.sp ∧ u.flags = s.flags ∧
      u.a = s.a ∧ u.x = s.x ∧ u.y = s.y

/-- From canonical memory with the stack slot in RAM (not hooked to a device), PHP followed by PLP answers a state with
all seven flags, SP, A, X and Y as before and PC two further. (47_stack_flags_system.md R261, R263; 20_memory.md
R65; 70_reset_and_hazards.md R338.) -/
def Obligations.PullStatusAfterPushStatus : Prop :=
  ∀ s t : State, s.mem.ram.wf = true → s.mem.hooked (0x0100 + zext16 s.sp) = false →
    exec .php s = .next t →
    ∃ u : State, exec .plp t = .next u ∧ u.flags = s.flags ∧ u.sp = s.sp ∧ u.pc = s.pc + 2 ∧
      u.a = s.a ∧ u.x = s.x ∧ u.y = s.y
end

