-- ==== Sys2Proof/Laws/Alu.lean ====
section
/-! SUPPORT. The ALU functions of Machine/Flags.lean, defined over the integers as 40_fixed_width_alu.md writes them, in the
operations of bit vectors: one lemma for each function. -/

namespace Sys2Proof.Machine

theorem negOf_eq (r : Byte) : negOf r = r.getLsbD 7 := rfl

theorem zeroOf_eq (r : Byte) : zeroOf r = decide (r = 0) := rfl

theorem ofInt_toNat_sub (a m : Byte) : BitVec.ofInt 8 ((a.toNat : Int) - m.toNat) = a - m := by
  rw [Int.sub_eq_add_neg, BitVec.ofInt_add, BitVec.ofInt_neg]
  simp [BitVec.sub_eq_add_neg]

theorem adc_sum_eq (a m : Byte) (c : Bool) :
    BitVec.ofNat 8 (a.toNat + m.toNat + c.toNat) = a + m + (if c then 1 else 0) := by
  apply BitVec.eq_of_toNat_eq
  cases c <;> simp

theorem sbc_diff_eq (a m : Byte) (c : Bool) :
    BitVec.ofInt 8 ((a.toNat : Int) - m.toNat - ((1 - c.toNat : Nat) : Int)) = a - m - (if c then 0 else 1) := by
  cases c
  · simp only [Bool.toNat_false, Nat.sub_zero, Nat.cast_one, Bool.false_eq_true, if_false]
    rw [sub_eq_add_neg _ (1 : Int), BitVec.ofInt_add, ofInt_toNat_sub, BitVec.sub_eq_add_neg (a - m)]
    rfl
  · simpa using ofInt_toNat_sub a m

theorem aluAdc_eq (a m : Byte) (c : Bool) :
    let r := a + m + (if c then 1 else 0)
    aluAdc a m c =
      { r := r, c := decide (a.toNat + m.toNat + c.toNat > 255)
        v := decide ((a ^^^ m) &&& 0x80 = 0 ∧ (a ^^^ r) &&& 0x80 ≠ 0), n := r.getLsbD 7, z := decide (r = 0) } := by
  simp only [aluAdc, adc_sum_eq, negOf_eq, zeroOf_eq, bne, BEq.beq, Bool.decide_and, decide_not]

theorem aluSbc_eq (a m : Byte) (c : Bool) :
    let r := a - m - (if c then 0 else 1)
    aluSbc a m c =
      { r := r, c := decide (m.toNat + (1 - c.toNat) ≤ a.toNat)
        v := decide ((a ^^^ m) &&& 0x80 ≠ 0 ∧ (a ^^^ r) &&& 0x80 ≠ 0), n := r.getLsbD 7, z := decide (r = 0) } := by
  simp only [aluSbc, sbc_diff_eq, negOf_eq, zeroOf_eq, bne, BEq.beq, Bool.decide_and, decide_not, ge_iff_le]

theorem aluCmp_eq (reg m : Byte) :
    aluCmp reg m = { c := decide (m ≤ reg), n := (reg - m).getLsbD 7, z := decide (reg = m) } := by
  have hz : reg - m = 0 ↔ reg = m := by
    constructor
    · intro h
      rw [← BitVec.sub_add_cancel reg m, h]
      exact BitVec.zero_add m
    · rintro rfl
      exact BitVec.sub_self reg
  simp only [aluCmp, ofInt_toNat_sub, negOf_eq, zeroOf_eq, hz, ge_iff_le, BitVec.le_def]

theorem double_eq (v : Byte) : BitVec.ofNat 8 (v.toNat * 2) = v <<< 1 := by
  apply BitVec.eq_of_toNat_eq
  simp [BitVec.toNat_shiftLeft, Nat.shiftLeft_eq]

theorem half_eq (v : Byte) : BitVec.ofNat 8 (v.toNat / 2) = v >>> 1 := by
  apply BitVec.eq_of_toNat_eq
  have := v.isLt
  simp only [BitVec.toNat_ofNat, BitVec.toNat_ushiftRight, Nat.shiftRight_eq_div_pow]
  omega

theorem aluAsl_eq (v : Byte) : aluAsl v = { r := v <<< 1, c := v.getLsbD 7 } := by
  simp only [aluAsl, double_eq]

theorem aluLsr_eq (v : Byte) : aluLsr v = { r := v >>> 1, c := v.getLsbD 0 } := by
  simp only [aluLsr, half_eq]

theorem aluRol_eq (v : Byte) (c : Bool) :
    aluRol v c = { r := (v <<< 1) ||| (if c then 1 else 0), c := v.getLsbD 7 } := by
  simp only [aluRol, double_eq]
  cases c <;> rfl

theorem aluRor_eq (v : Byte) (c : Bool) :
    aluRor v c = { r := (v >>> 1) ||| (if c then 0x80 else 0), c := v.getLsbD 0 } := by
  simp only [aluRor, half_eq]
  cases c <;> rfl

theorem aluInc_eq (v : Byte) : aluInc v = v + 1 := by
  apply BitVec.eq_of_toNat_eq
  simp [aluInc]

theorem aluDec_eq (v : Byte) : aluDec v = v - 1 := by
  have := ofInt_toNat_sub v 1
  simpa [aluDec] using this

end Sys2Proof.Machine
end

