-- ==== Sys2Proof/Laws/Decode.lean ====
section
/-! SUPPORT. Facts about the opcode table: no two rows share an opcode byte, and the row of a byte makes well-formed
instructions of the row's mode whose opcode in the tables by mnemonic is that byte (30_encoding.md R85 to R88). -/

namespace Sys2Proof

/-- A row and the encoder agree: what the row makes of any operand bytes is well-formed, has the row's mode, the row's
opcode, and exactly the operand bytes of its length. -/
def Row.Coherent (r : Row) : Prop :=
  ∀ b1 b2 : Byte,
    (r.instr b1 b2).wellFormed = true ∧ (r.instr b1 b2).mode = r.mode ∧ (r.instr b1 b2).opcode = some r.opcode ∧
      (r.instr b1 b2).operandBytes = [b1, b2].take (r.length - 1)

/-- The table has the 203 rows of 30_encoding.md R85. -/
theorem opcodeTable_length : opcodeTable.length = 203 := by decide +kernel

/-- No two rows overlap. -/
theorem opcodeTable_opcodes_nodup : (opcodeTable.map Row.opcode).Nodup := by decide +kernel

theorem opcodeRow0_coherent : ∀ r ∈ opcodeRow0, r.Coherent := by
  simp only [opcodeRow0, List.forall_mem_cons]
  and_intros
  all_goals first | exact List.forall_mem_nil _ | exact fun b1 b2 => ⟨rfl, rfl, rfl, rfl⟩ | exact fun b1 b2 => ⟨rfl, rfl, rfl, by simp [Row.instr, Instr.operandBytes, Operand.ofBytes, Operand.bytes, Row.length, Row.mode, Mode.length]⟩

theorem opcodeRow1_coherent : ∀ r ∈ opcodeRow1, r.Coherent := by
  simp only [opcodeRow1, List.forall_mem_cons]
  and_intros
  all_goals first | exact List.forall_mem_nil _ | exact fun b1 b2 => ⟨rfl, rfl, rfl, rfl⟩ | exact fun b1 b2 => ⟨rfl, rfl, rfl, by simp [Row.instr, Instr.operandBytes, Operand.ofBytes, Operand.bytes, Row.length, Row.mode, Mode.length]⟩

theorem opcodeRow2_coherent : ∀ r ∈ opcodeRow2, r.Coherent := by
  simp only [opcodeRow2, List.forall_mem_cons]
  and_intros
  all_goals first | exact List.forall_mem_nil _ | exact fun b1 b2 => ⟨rfl, rfl, rfl, rfl⟩ | exact fun b1 b2 => ⟨rfl, rfl, rfl, by simp [Row.instr, Instr.operandBytes, Operand.ofBytes, Operand.bytes, Row.length, Row.mode, Mode.length]⟩

theorem opcodeRow3_coherent : ∀ r ∈ opcodeRow3, r.Coherent := by
  simp only [opcodeRow3, List.forall_mem_cons]
  and_intros
  all_goals first | exact List.forall_mem_nil _ | exact fun b1 b2 => ⟨rfl, rfl, rfl, rfl⟩ | exact fun b1 b2 => ⟨rfl, rfl, rfl, by simp [Row.instr, Instr.operandBytes, Operand.ofBytes, Operand.bytes, Row.length, Row.mode, Mode.length]⟩

theorem opcodeRow4_coherent : ∀ r ∈ opcodeRow4, r.Coherent := by
  simp only [opcodeRow4, List.forall_mem_cons]
  and_intros
  all_goals first | exact List.forall_mem_nil _ | exact fun b1 b2 => ⟨rfl, rfl, rfl, rfl⟩ | exact fun b1 b2 => ⟨rfl, rfl, rfl, by simp [Row.instr, Instr.operandBytes, Operand.ofBytes, Operand.bytes, Row.length, Row.mode, Mode.length]⟩

theorem opcodeRow5_coherent : ∀ r ∈ opcodeRow5, r.Coherent := by
  simp only [opcodeRow5, List.forall_mem_cons]
  and_intros
  all_goals first | exact List.forall_mem_nil _ | exact fun b1 b2 => ⟨rfl, rfl, rfl, rfl⟩ | exact fun b1 b2 => ⟨rfl, rfl, rfl, by simp [Row.instr, Instr.operandBytes, Operand.ofBytes, Operand.bytes, Row.length, Row.mode, Mode.length]⟩

theorem opcodeRow6_coherent : ∀ r ∈ opcodeRow6, r.Coherent := by
  simp only [opcodeRow6, List.forall_mem_cons]
  and_intros
  all_goals first | exact List.forall_mem_nil _ | exact fun b1 b2 => ⟨rfl, rfl, rfl, rfl⟩ | exact fun b1 b2 => ⟨rfl, rfl, rfl, by simp [Row.instr, Instr.operandBytes, Operand.ofBytes, Operand.bytes, Row.length, Row.mode, Mode.length]⟩

theorem opcodeRow7_coherent : ∀ r ∈ opcodeRow7, r.Coherent := by
  simp only [opcodeRow7, List.forall_mem_cons]
  and_intros
  all_goals first | exact List.forall_mem_nil _ | exact fun b1 b2 => ⟨rfl, rfl, rfl, rfl⟩ | exact fun b1 b2 => ⟨rfl, rfl, rfl, by simp [Row.instr, Instr.operandBytes, Operand.ofBytes, Operand.bytes, Row.length, Row.mode, Mode.length]⟩

theorem opcodeRow8_coherent : ∀ r ∈ opcodeRow8, r.Coherent := by
  simp only [opcodeRow8, List.forall_mem_cons]
  and_intros
  all_goals first | exact List.forall_mem_nil _ | exact fun b1 b2 => ⟨rfl, rfl, rfl, rfl⟩ | exact fun b1 b2 => ⟨rfl, rfl, rfl, by simp [Row.instr, Instr.operandBytes, Operand.ofBytes, Operand.bytes, Row.length, Row.mode, Mode.length]⟩

theorem opcodeRow9_coherent : ∀ r ∈ opcodeRow9, r.Coherent := by
  simp only [opcodeRow9, List.forall_mem_cons]
  and_intros
  all_goals first | exact List.forall_mem_nil _ | exact fun b1 b2 => ⟨rfl, rfl, rfl, rfl⟩ | exact fun b1 b2 => ⟨rfl, rfl, rfl, by simp [Row.instr, Instr.operandBytes, Operand.ofBytes, Operand.bytes, Row.length, Row.mode, Mode.length]⟩

theorem opcodeRowA_coherent : ∀ r ∈ opcodeRowA, r.Coherent := by
  simp only [opcodeRowA, List.forall_mem_cons]
  and_intros
  all_goals first | exact List.forall_mem_nil _ | exact fun b1 b2 => ⟨rfl, rfl, rfl, rfl⟩ | exact fun b1 b2 => ⟨rfl, rfl, rfl, by simp [Row.instr, Instr.operandBytes, Operand.ofBytes, Operand.bytes, Row.length, Row.mode, Mode.length]⟩

theorem opcodeRowB_coherent : ∀ r ∈ opcodeRowB, r.Coherent := by
  simp only [opcodeRowB, List.forall_mem_cons]
  and_intros
  all_goals first | exact List.forall_mem_nil _ | exact fun b1 b2 => ⟨rfl, rfl, rfl, rfl⟩ | exact fun b1 b2 => ⟨rfl, rfl, rfl, by simp [Row.instr, Instr.operandBytes, Operand.ofBytes, Operand.bytes, Row.length, Row.mode, Mode.length]⟩

theorem opcodeRowC_coherent : ∀ r ∈ opcodeRowC, r.Coherent := by
  simp only [opcodeRowC, List.forall_mem_cons]
  and_intros
  all_goals first | exact List.forall_mem_nil _ | exact fun b1 b2 => ⟨rfl, rfl, rfl, rfl⟩ | exact fun b1 b2 => ⟨rfl, rfl, rfl, by simp [Row.instr, Instr.operandBytes, Operand.ofBytes, Operand.bytes, Row.length, Row.mode, Mode.length]⟩

theorem opcodeRowD_coherent : ∀ r ∈ opcodeRowD, r.Coherent := by
  simp only [opcodeRowD, List.forall_mem_cons]
  and_intros
  all_goals first | exact List.forall_mem_nil _ | exact fun b1 b2 => ⟨rfl, rfl, rfl, rfl⟩ | exact fun b1 b2 => ⟨rfl, rfl, rfl, by simp [Row.instr, Instr.operandBytes, Operand.ofBytes, Operand.bytes, Row.length, Row.mode, Mode.length]⟩

theorem opcodeRowE_coherent : ∀ r ∈ opcodeRowE, r.Coherent := by
  simp only [opcodeRowE, List.forall_mem_cons]
  and_intros
  all_goals first | exact List.forall_mem_nil _ | exact fun b1 b2 => ⟨rfl, rfl, rfl, rfl⟩ | exact fun b1 b2 => ⟨rfl, rfl, rfl, by simp [Row.instr, Instr.operandBytes, Operand.ofBytes, Operand.bytes, Row.length, Row.mode, Mode.length]⟩

theorem opcodeRowF_coherent : ∀ r ∈ opcodeRowF, r.Coherent := by
  simp only [opcodeRowF, List.forall_mem_cons]
  and_intros
  all_goals first | exact List.forall_mem_nil _ | exact fun b1 b2 => ⟨rfl, rfl, rfl, rfl⟩ | exact fun b1 b2 => ⟨rfl, rfl, rfl, by simp [Row.instr, Instr.operandBytes, Operand.ofBytes, Operand.bytes, Row.length, Row.mode, Mode.length]⟩

/-- Every row of the table is coherent with the encoder. -/
theorem opcodeTable_coherent : ∀ r ∈ opcodeTable, r.Coherent := by
  simp only [opcodeTable, List.forall_mem_append]
  exact ⟨⟨⟨⟨⟨⟨⟨⟨⟨⟨⟨⟨⟨⟨⟨opcodeRow0_coherent, opcodeRow1_coherent⟩, opcodeRow2_coherent⟩, opcodeRow3_coherent⟩, opcodeRow4_coherent⟩, opcodeRow5_coherent⟩, opcodeRow6_coherent⟩, opcodeRow7_coherent⟩, opcodeRow8_coherent⟩, opcodeRow9_coherent⟩, opcodeRowA_coherent⟩, opcodeRowB_coherent⟩, opcodeRowC_coherent⟩, opcodeRowD_coherent⟩, opcodeRowE_coherent⟩, opcodeRowF_coherent⟩

/-- The row of an opcode byte is a row of the table with that byte. -/
theorem lookupOpcode_some {op : Byte} {r : Row} (h : lookupOpcode op = some r) : r ∈ opcodeTable ∧ r.opcode = op := by
  refine ⟨List.mem_of_find?_eq_some h, ?_⟩
  simpa using List.find?_some h

end Sys2Proof
end

