-- ==== Sys2Proof/Laws/Exec.lean ====
section
/-! SUPPORT. Every meaning is total: no instruction faults or is refused (60_exceptions.md R300). -/

namespace Sys2Proof.Machine

/-- Every instruction answers a next state, well-formed or not. -/
theorem exec_answers (i : Instr) (s : State) : ∃ t, exec i s = .next t := by
  cases i <;> exact ⟨_, rfl⟩

end Sys2Proof.Machine
end

