-- ==== Sys2Proof/Laws/Memory.lean ====
section
/-! SUPPORT. The laws of the byte array (20_memory.md R52, R65): read after write, the canonical form, and that memories in
canonical form with the same contents are the same data. -/

namespace Sys2Proof.Machine.Memory

@[simp] theorem read_nil (a : Nat) : read [] a = unlisted := rfl

theorem read_cons (k : Nat) (w : Byte) (m : Memory) (a : Nat) :
    read ((k, w) :: m) a = if a = k then w else read m a := rfl

/-- An address below every listed one is unlisted. -/
theorem read_of_lt_all {m : Memory} {a : Nat} (h : ∀ c ∈ m, a < c.1) : read m a = unlisted := by
  induction m with
  | nil => rfl
  | cons c m ih =>
    obtain ⟨k, w⟩ := c
    have hk : a < k := h (k, w) (by simp)
    rw [read_cons, if_neg (by omega)]
    exact ih fun c hc => h c (by simp [hc])

theorem wf_cons {k : Nat} {w : Byte} {m : Memory} :
    wf ((k, w) :: m) = true ↔ k < 0x10000 ∧ w ≠ unlisted ∧ (∀ c ∈ m, k < c.1) ∧ wf m = true := by
  simp [wf, and_assoc]

/-- A read after a write: the written byte at its address, the old byte everywhere else. -/
theorem read_write {m : Memory} (h : wf m = true) (a : Nat) (v : Byte) (b : Nat) :
    read (write m a v) b = if b = a then v else read m b := by
  induction m with
  | nil =>
    by_cases hv : v = unlisted <;> simp [write, hv, read_cons]
  | cons c m ih =>
    obtain ⟨k, w⟩ := c
    obtain ⟨-, -, hall, hm⟩ := wf_cons.1 h
    have low : a ≤ k → read m a = unlisted := fun ha =>
      read_of_lt_all fun c hc => by have := hall c hc; omega
    by_cases hv : v = unlisted
    · rcases Nat.lt_trichotomy a k with h1 | h1 | h1
      · by_cases hb : b = a
        · subst hb
          simp [write, h1, hv, read_cons, show b ≠ k by omega, low (by omega)]
        · simp [write, h1, hv, hb]
      · subst h1
        by_cases hb : b = a
        · subst hb
          simp [write, hv, low (Nat.le_refl _)]
        · simp [write, hv, read_cons, hb]
      · by_cases hb : b = a
        · subst hb
          simp [write, read_cons, ih hm, show ¬ b < k by omega, show b ≠ k by omega]
        · simp [write, read_cons, ih hm, hb, show ¬ a < k by omega, show a ≠ k by omega]
    · rcases Nat.lt_trichotomy a k with h1 | h1 | h1
      · simp [write, h1, hv, read_cons]
      · subst h1
        by_cases hb : b = a <;> simp [write, hv, read_cons, hb]
      · by_cases hb : b = a
        · subst hb
          simp [write, read_cons, ih hm, show ¬ b < k by omega, show b ≠ k by omega]
        · simp [write, read_cons, ih hm, hb, show ¬ a < k by omega, show a ≠ k by omega]

/-- Read after write at the same address. -/
theorem read_write_same {m : Memory} (h : wf m = true) (a : Nat) (v : Byte) : read (write m a v) a = v := by
  simp [read_write h]

/-- A write leaves every other address alone. -/
theorem read_write_ne {m : Memory} (h : wf m = true) {a b : Nat} (v : Byte) (hb : b ≠ a) :
    read (write m a v) b = read m b := by
  simp [read_write h, hb]

/-- Every listed address after a write was listed before or is the written one. -/
theorem mem_write {m : Memory} {a : Nat} {v : Byte} {c : Host.Cell} (h : c ∈ write m a v) :
    c ∈ m ∨ (c = (a, v) ∧ v ≠ unlisted) := by
  induction m with
  | nil =>
    by_cases hv : v = unlisted <;> simp [write, hv] at h
    exact .inr ⟨h, hv⟩
  | cons d m ih =>
    obtain ⟨k, w⟩ := d
    simp only [write] at h
    split_ifs at h with h1 h2 h3 h4
    · exact .inl h
    · rcases List.mem_cons.1 h with rfl | h
      · exact .inr ⟨rfl, h2⟩
      · exact .inl h
    · exact .inl (List.mem_cons_of_mem _ h)
    · rcases List.mem_cons.1 h with rfl | h
      · exact .inr ⟨rfl, h4⟩
      · exact .inl (List.mem_cons_of_mem _ h)
    · rcases List.mem_cons.1 h with rfl | h
      · exact .inl (by simp)
      · exact (ih h).imp (List.mem_cons_of_mem _) id

/-- A write keeps the canonical form. -/
theorem write_wf {m : Memory} (h : wf m = true) {a : Nat} (ha : a < 0x10000) (v : Byte) : wf (write m a v) = true := by
  induction m with
  | nil =>
    by_cases hv : v = unlisted <;> simp [write, hv, wf, ha]
  | cons c m ih =>
    obtain ⟨k, w⟩ := c
    obtain ⟨hk, hw, hall, hm⟩ := wf_cons.1 h
    simp only [write]
    split_ifs with h1 h2 h3 h4
    · exact h
    · refine wf_cons.2 ⟨ha, h2, fun c hc => ?_, h⟩
      rcases List.mem_cons.1 hc with rfl | hc
      · exact h1
      · have := hall c hc; omega
    · exact hm
    · refine wf_cons.2 ⟨ha, h4, fun c hc => ?_, hm⟩
      have := hall c hc; omega
    · refine wf_cons.2 ⟨hk, hw, fun c hc => ?_, ih hm⟩
      rcases mem_write hc with hc | ⟨rfl, -⟩
      · exact hall c hc
      · simp only; omega

/-- A write at a word address keeps the canonical form. -/
theorem write_word_wf {m : Memory} (h : wf m = true) (a : Word) (v : Byte) : wf (write m a.toNat v) = true :=
  write_wf h a.isLt v

/-- A listed byte is not the unlisted one. -/
theorem read_ne_of_head {k : Nat} {w : Byte} {m : Memory} (h : wf ((k, w) :: m) = true) :
    read ((k, w) :: m) k ≠ unlisted := by
  simpa [read_cons] using (wf_cons.1 h).2.1

/-- Memories in canonical form with the same contents are equal data. -/
theorem ext_of_wf : ∀ {m m' : Memory}, wf m = true → wf m' = true → (∀ a, read m a = read m' a) → m = m'
  | [], [], _, _, _ => rfl
  | [], (k, _) :: _, _, h', e => absurd (e k).symm (read_ne_of_head h')
  | (k, _) :: _, [], h, _, e => absurd (e k) (read_ne_of_head h)
  | (k, w) :: m, (k', w') :: m', h, h', e => by
    obtain ⟨-, hw, hall, hm⟩ := wf_cons.1 h
    obtain ⟨-, hw', hall', hm'⟩ := wf_cons.1 h'
    have hkk : k = k' := by
      rcases Nat.lt_trichotomy k k' with hlt | heq | hlt
      · refine absurd ((e k).trans (read_of_lt_all fun c hc => ?_)) (read_ne_of_head h)
        rcases List.mem_cons.1 hc with rfl | hc
        · exact hlt
        · have := hall' c hc; omega
      · exact heq
      · refine absurd ((e k').symm.trans (read_of_lt_all fun c hc => ?_)) (read_ne_of_head h')
        rcases List.mem_cons.1 hc with rfl | hc
        · exact hlt
        · have := hall c hc; omega
    subst hkk
    have hww : w = w' := by simpa [read_cons] using e k
    subst hww
    congr 1
    refine ext_of_wf hm hm' fun a => ?_
    by_cases ha : a = k
    · subst ha
      rw [read_of_lt_all hall, read_of_lt_all hall']
    · simpa [read_cons, ha] using e a

/-- The memory after reset is in canonical form. -/
theorem reset_mem_wf : wf State.reset.mem.ram = true := rfl

end Sys2Proof.Machine.Memory
end

