-- ==== Sys2Proof/Laws/Platform.lean ====
section
/-! SUPPORT. The laws of the platform behind the memory interface (20_memory.md R51, R52): no access changes the hook
table, an address that is not hooked is RAM, a write keeps the canonical form, and what the reads of Safety.lean keep. -/

namespace Sys2Proof.Machine.Platform

variable (m : Platform)

/-! ### One read and one write -/

theorem read_of_unhooked {a : Word} (h : m.hooked a = false) : m.read a = (m.ram.read a.toNat, m) := by
  simp [read, h]

theorem read_of_hooked {a : Word} (h : m.hooked a = true) :
    m.read a = ((Config.deviceRead m.device a).1, { m with device := (Config.deviceRead m.device a).2 }) := by
  simp [read, h]

theorem write_of_unhooked {a : Word} (h : m.hooked a = false) (v : Byte) :
    m.write a v = { m with ram := m.ram.write a.toNat v } := by
  simp [write, h]

theorem write_of_hooked {a : Word} (h : m.hooked a = true) (v : Byte) :
    m.write a v = { m with device := Config.deviceWrite m.device a v } := by
  simp [write, h]

@[simp] theorem read_hooks (a : Word) : (m.read a).2.hooks = m.hooks := by
  unfold read; split <;> rfl

@[simp] theorem read_ram (a : Word) : (m.read a).2.ram = m.ram := by
  unfold read; split <;> rfl

@[simp] theorem write_hooks (a : Word) (v : Byte) : (m.write a v).hooks = m.hooks := by
  unfold write; split <;> rfl

@[simp] theorem write_ram (a : Word) (v : Byte) :
    (m.write a v).ram = if m.hooked a then m.ram else m.ram.write a.toNat v := by
  unfold write; split <;> rfl

@[simp] theorem hooked_read (a b : Word) : (m.read a).2.hooked b = m.hooked b := by simp [hooked]

@[simp] theorem hooked_write (a : Word) (v : Byte) (b : Word) : (m.write a v).hooked b = m.hooked b := by simp [hooked]

@[simp] theorem flat_hooked (ram : Memory) (a : Word) : (flat ram).hooked a = false := rfl

/-- A read keeps the canonical form. -/
theorem read_wf {m : Platform} (h : m.ram.wf = true) (a : Word) : (m.read a).2.ram.wf = true := by simpa using h

/-- A write keeps the canonical form. -/
theorem write_wf {m : Platform} (h : m.ram.wf = true) (a : Word) (v : Byte) : (m.write a v).ram.wf = true := by
  rw [write_ram]
  split
  · exact h
  · exact Memory.write_word_wf h a v

/-- A write leaves the bytes of RAM at the other addresses alone. -/
theorem write_ram_read_ne {m : Platform} (h : m.ram.wf = true) {a : Word} {b : Nat} (v : Byte) (hb : b ≠ a.toNat) :
    (m.write a v).ram.read b = m.ram.read b := by
  rw [write_ram]
  split
  · rfl
  · exact Memory.read_write_ne h v hb

/-- In RAM a read answers the byte last written there. -/
theorem read_write_same {m : Platform} (h : m.ram.wf = true) {a : Word} (ha : m.hooked a = false) (v : Byte) :
    (m.write a v).read a = (v, m.write a v) := by
  rw [read_of_unhooked _ (by simpa using ha), write_ram, if_neg (by simp [ha]), Memory.read_write_same h]

/-- An address of RAM answers the same after a write elsewhere, to RAM or to a device. -/
theorem read_write_ne {m : Platform} (h : m.ram.wf = true) {a b : Word} (hb : m.hooked b = false) (hab : b ≠ a)
    (v : Byte) : ((m.write a v).read b).1 = (m.read b).1 := by
  rw [read_of_unhooked _ (by simpa using hb), read_of_unhooked _ hb]
  exact write_ram_read_ne h v fun e => hab (BitVec.eq_of_toNat_eq e)

/-- An address of RAM answers the same after a read, and answering changes nothing. -/
theorem read_read_of_unhooked {b : Word} (hb : m.hooked b = false) (a : Word) :
    (m.read a).2.read b = ((m.read b).1, (m.read a).2) := by
  rw [read_of_unhooked _ (by simpa using hb), read_of_unhooked _ hb, read_ram]

/-! ### The reads of Safety.lean -/

@[simp] theorem readByte_hooks (a : Word) : (m.readByte a).mem.hooks = m.hooks := read_hooks m a
@[simp] theorem readByte_ram (a : Word) : (m.readByte a).mem.ram = m.ram := read_ram m a

@[simp] theorem readWord_hooks (lo hi : Word) : (m.readWord lo hi).mem.hooks = m.hooks := by simp [readWord]
@[simp] theorem readWord_ram (lo hi : Word) : (m.readWord lo hi).mem.ram = m.ram := by simp [readWord]

@[simp] theorem hooked_readWord (lo hi b : Word) : (m.readWord lo hi).mem.hooked b = m.hooked b := by simp [hooked]

/-- An address of RAM answers the same after a word was read. -/
theorem readWord_read_of_unhooked {b : Word} (hb : m.hooked b = false) (lo hi : Word) :
    (m.readWord lo hi).mem.read b = ((m.read b).1, (m.readWord lo hi).mem) := by
  rw [read_of_unhooked _ (by simpa using hb), read_of_unhooked _ hb, readWord_ram]

theorem readAll_hooks (addrs : List Word) : ∀ m : Platform, (m.readAll addrs).mem.hooks = m.hooks := by
  induction addrs with
  | nil => intro m; rfl
  | cons a addrs ih => intro m; simp [readAll, ih]

theorem readAll_ram (addrs : List Word) : ∀ m : Platform, (m.readAll addrs).mem.ram = m.ram := by
  induction addrs with
  | nil => intro m; rfl
  | cons a addrs ih => intro m; simp [readAll, ih]

/-! ### Replaying accesses -/

theorem replay_append (xs ys : List Access) :
    ∀ m : Platform, m.replay (xs ++ ys) = (m.replay xs).bind fun m' => m'.replay ys := by
  induction xs with
  | nil => intro m; rfl
  | cons x xs ih =>
    intro m
    cases x with
    | read a v =>
      by_cases h : (m.read a).1 = v
      · simp [replay, h, ih]
      · simp [replay, h]
    | write a v => simp [replay, ih]

@[simp] theorem replay_readByte (a : Word) : m.replay (m.readByte a).accesses = some (m.readByte a).mem := by
  simp [replay, readByte]

@[simp] theorem replay_readWord (lo hi : Word) : m.replay (m.readWord lo hi).accesses = some (m.readWord lo hi).mem := by
  simp [readWord, replay_append]

end Sys2Proof.Machine.Platform
end

