-- ==== Sys2Proof/Laws/State.lean ====
section
/-! SUPPORT. One lemma for each field of State and each primitive update, so that no later proof unfolds a record
update, and the composition lemmas of `note`. -/

namespace Sys2Proof.Machine.State

variable (s : State)

/-! `setA` -/

@[simp] theorem setA_a (v : Byte) : (s.setA v).a = v := rfl
@[simp] theorem setA_x (v : Byte) : (s.setA v).x = s.x := rfl
@[simp] theorem setA_y (v : Byte) : (s.setA v).y = s.y := rfl
@[simp] theorem setA_sp (v : Byte) : (s.setA v).sp = s.sp := rfl
@[simp] theorem setA_pc (v : Byte) : (s.setA v).pc = s.pc := rfl
@[simp] theorem setA_flags (v : Byte) : (s.setA v).flags = s.flags := rfl
@[simp] theorem setA_pendingCycles (v : Byte) : (s.setA v).pendingCycles = s.pendingCycles := rfl
@[simp] theorem setA_halted (v : Byte) : (s.setA v).halted = s.halted := rfl
@[simp] theorem setA_started (v : Byte) : (s.setA v).started = s.started := rfl
@[simp] theorem setA_nmiLatch (v : Byte) : (s.setA v).nmiLatch = s.nmiLatch := rfl
@[simp] theorem setA_nmiPrev (v : Byte) : (s.setA v).nmiPrev = s.nmiPrev := rfl
@[simp] theorem setA_mem (v : Byte) : (s.setA v).mem = s.mem := rfl
@[simp] theorem setA_cfg (v : Byte) : (s.setA v).cfg = s.cfg := rfl
@[simp] theorem setA_inputs (v : Byte) : (s.setA v).inputs = s.inputs := rfl
@[simp] theorem setA_bus (v : Byte) : (s.setA v).bus = s.bus := rfl
@[simp] theorem setA_result (v : Byte) : (s.setA v).result = s.result := rfl

/-! `setX` -/

@[simp] theorem setX_a (v : Byte) : (s.setX v).a = s.a := rfl
@[simp] theorem setX_x (v : Byte) : (s.setX v).x = v := rfl
@[simp] theorem setX_y (v : Byte) : (s.setX v).y = s.y := rfl
@[simp] theorem setX_sp (v : Byte) : (s.setX v).sp = s.sp := rfl
@[simp] theorem setX_pc (v : Byte) : (s.setX v).pc = s.pc := rfl
@[simp] theorem setX_flags (v : Byte) : (s.setX v).flags = s.flags := rfl
@[simp] theorem setX_pendingCycles (v : Byte) : (s.setX v).pendingCycles = s.pendingCycles := rfl
@[simp] theorem setX_halted (v : Byte) : (s.setX v).halted = s.halted := rfl
@[simp] theorem setX_started (v : Byte) : (s.setX v).started = s.started := rfl
@[simp] theorem setX_nmiLatch (v : Byte) : (s.setX v).nmiLatch = s.nmiLatch := rfl
@[simp] theorem setX_nmiPrev (v : Byte) : (s.setX v).nmiPrev = s.nmiPrev := rfl
@[simp] theorem setX_mem (v : Byte) : (s.setX v).mem = s.mem := rfl
@[simp] theorem setX_cfg (v : Byte) : (s.setX v).cfg = s.cfg := rfl
@[simp] theorem setX_inputs (v : Byte) : (s.setX v).inputs = s.inputs := rfl
@[simp] theorem setX_bus (v : Byte) : (s.setX v).bus = s.bus := rfl
@[simp] theorem setX_result (v : Byte) : (s.setX v).result = s.result := rfl

/-! `setY` -/

@[simp] theorem setY_a (v : Byte) : (s.setY v).a = s.a := rfl
@[simp] theorem setY_x (v : Byte) : (s.setY v).x = s.x := rfl
@[simp] theorem setY_y (v : Byte) : (s.setY v).y = v := rfl
@[simp] theorem setY_sp (v : Byte) : (s.setY v).sp = s.sp := rfl
@[simp] theorem setY_pc (v : Byte) : (s.setY v).pc = s.pc := rfl
@[simp] theorem setY_flags (v : Byte) : (s.setY v).flags = s.flags := rfl
@[simp] theorem setY_pendingCycles (v : Byte) : (s.setY v).pendingCycles = s.pendingCycles := rfl
@[simp] theorem setY_halted (v : Byte) : (s.setY v).halted = s.halted := rfl
@[simp] theorem setY_started (v : Byte) : (s.setY v).started = s.started := rfl
@[simp] theorem setY_nmiLatch (v : Byte) : (s.setY v).nmiLatch = s.nmiLatch := rfl
@[simp] theorem setY_nmiPrev (v : Byte) : (s.setY v).nmiPrev = s.nmiPrev := rfl
@[simp] theorem setY_mem (v : Byte) : (s.setY v).mem = s.mem := rfl
@[simp] theorem setY_cfg (v : Byte) : (s.setY v).cfg = s.cfg := rfl
@[simp] theorem setY_inputs (v : Byte) : (s.setY v).inputs = s.inputs := rfl
@[simp] theorem setY_bus (v : Byte) : (s.setY v).bus = s.bus := rfl
@[simp] theorem setY_result (v : Byte) : (s.setY v).result = s.result := rfl

/-! `setSP` -/

@[simp] theorem setSP_a (v : Byte) : (s.setSP v).a = s.a := rfl
@[simp] theorem setSP_x (v : Byte) : (s.setSP v).x = s.x := rfl
@[simp] theorem setSP_y (v : Byte) : (s.setSP v).y = s.y := rfl
@[simp] theorem setSP_sp (v : Byte) : (s.setSP v).sp = v := rfl
@[simp] theorem setSP_pc (v : Byte) : (s.setSP v).pc = s.pc := rfl
@[simp] theorem setSP_flags (v : Byte) : (s.setSP v).flags = s.flags := rfl
@[simp] theorem setSP_pendingCycles (v : Byte) : (s.setSP v).pendingCycles = s.pendingCycles := rfl
@[simp] theorem setSP_halted (v : Byte) : (s.setSP v).halted = s.halted := rfl
@[simp] theorem setSP_started (v : Byte) : (s.setSP v).started = s.started := rfl
@[simp] theorem setSP_nmiLatch (v : Byte) : (s.setSP v).nmiLatch = s.nmiLatch := rfl
@[simp] theorem setSP_nmiPrev (v : Byte) : (s.setSP v).nmiPrev = s.nmiPrev := rfl
@[simp] theorem setSP_mem (v : Byte) : (s.setSP v).mem = s.mem := rfl
@[simp] theorem setSP_cfg (v : Byte) : (s.setSP v).cfg = s.cfg := rfl
@[simp] theorem setSP_inputs (v : Byte) : (s.setSP v).inputs = s.inputs := rfl
@[simp] theorem setSP_bus (v : Byte) : (s.setSP v).bus = s.bus := rfl
@[simp] theorem setSP_result (v : Byte) : (s.setSP v).result = s.result := rfl

/-! `setPC` -/

@[simp] theorem setPC_a (v : Word) : (s.setPC v).a = s.a := rfl
@[simp] theorem setPC_x (v : Word) : (s.setPC v).x = s.x := rfl
@[simp] theorem setPC_y (v : Word) : (s.setPC v).y = s.y := rfl
@[simp] theorem setPC_sp (v : Word) : (s.setPC v).sp = s.sp := rfl
@[simp] theorem setPC_pc (v : Word) : (s.setPC v).pc = v := rfl
@[simp] theorem setPC_flags (v : Word) : (s.setPC v).flags = s.flags := rfl
@[simp] theorem setPC_pendingCycles (v : Word) : (s.setPC v).pendingCycles = s.pendingCycles := rfl
@[simp] theorem setPC_halted (v : Word) : (s.setPC v).halted = s.halted := rfl
@[simp] theorem setPC_started (v : Word) : (s.setPC v).started = s.started := rfl
@[simp] theorem setPC_nmiLatch (v : Word) : (s.setPC v).nmiLatch = s.nmiLatch := rfl
@[simp] theorem setPC_nmiPrev (v : Word) : (s.setPC v).nmiPrev = s.nmiPrev := rfl
@[simp] theorem setPC_mem (v : Word) : (s.setPC v).mem = s.mem := rfl
@[simp] theorem setPC_cfg (v : Word) : (s.setPC v).cfg = s.cfg := rfl
@[simp] theorem setPC_inputs (v : Word) : (s.setPC v).inputs = s.inputs := rfl
@[simp] theorem setPC_bus (v : Word) : (s.setPC v).bus = s.bus := rfl
@[simp] theorem setPC_result (v : Word) : (s.setPC v).result = s.result := rfl

/-! `setFlags` -/

@[simp] theorem setFlags_a (v : Flags) : (s.setFlags v).a = s.a := rfl
@[simp] theorem setFlags_x (v : Flags) : (s.setFlags v).x = s.x := rfl
@[simp] theorem setFlags_y (v : Flags) : (s.setFlags v).y = s.y := rfl
@[simp] theorem setFlags_sp (v : Flags) : (s.setFlags v).sp = s.sp := rfl
@[simp] theorem setFlags_pc (v : Flags) : (s.setFlags v).pc = s.pc := rfl
@[simp] theorem setFlags_flags (v : Flags) : (s.setFlags v).flags = v := rfl
@[simp] theorem setFlags_pendingCycles (v : Flags) : (s.setFlags v).pendingCycles = s.pendingCycles := rfl
@[simp] theorem setFlags_halted (v : Flags) : (s.setFlags v).halted = s.halted := rfl
@[simp] theorem setFlags_started (v : Flags) : (s.setFlags v).started = s.started := rfl
@[simp] theorem setFlags_nmiLatch (v : Flags) : (s.setFlags v).nmiLatch = s.nmiLatch := rfl
@[simp] theorem setFlags_nmiPrev (v : Flags) : (s.setFlags v).nmiPrev = s.nmiPrev := rfl
@[simp] theorem setFlags_mem (v : Flags) : (s.setFlags v).mem = s.mem := rfl
@[simp] theorem setFlags_cfg (v : Flags) : (s.setFlags v).cfg = s.cfg := rfl
@[simp] theorem setFlags_inputs (v : Flags) : (s.setFlags v).inputs = s.inputs := rfl
@[simp] theorem setFlags_bus (v : Flags) : (s.setFlags v).bus = s.bus := rfl
@[simp] theorem setFlags_result (v : Flags) : (s.setFlags v).result = s.result := rfl

/-! `setMem` -/

@[simp] theorem setMem_a (v : Platform) : (s.setMem v).a = s.a := rfl
@[simp] theorem setMem_x (v : Platform) : (s.setMem v).x = s.x := rfl
@[simp] theorem setMem_y (v : Platform) : (s.setMem v).y = s.y := rfl
@[simp] theorem setMem_sp (v : Platform) : (s.setMem v).sp = s.sp := rfl
@[simp] theorem setMem_pc (v : Platform) : (s.setMem v).pc = s.pc := rfl
@[simp] theorem setMem_flags (v : Platform) : (s.setMem v).flags = s.flags := rfl
@[simp] theorem setMem_pendingCycles (v : Platform) : (s.setMem v).pendingCycles = s.pendingCycles := rfl
@[simp] theorem setMem_halted (v : Platform) : (s.setMem v).halted = s.halted := rfl
@[simp] theorem setMem_started (v : Platform) : (s.setMem v).started = s.started := rfl
@[simp] theorem setMem_nmiLatch (v : Platform) : (s.setMem v).nmiLatch = s.nmiLatch := rfl
@[simp] theorem setMem_nmiPrev (v : Platform) : (s.setMem v).nmiPrev = s.nmiPrev := rfl
@[simp] theorem setMem_mem (v : Platform) : (s.setMem v).mem = v := rfl
@[simp] theorem setMem_cfg (v : Platform) : (s.setMem v).cfg = s.cfg := rfl
@[simp] theorem setMem_inputs (v : Platform) : (s.setMem v).inputs = s.inputs := rfl
@[simp] theorem setMem_bus (v : Platform) : (s.setMem v).bus = s.bus := rfl
@[simp] theorem setMem_result (v : Platform) : (s.setMem v).result = s.result := rfl

/-! `note` -/

@[simp] theorem note_a (v : List Access) : (s.note v).a = s.a := rfl
@[simp] theorem note_x (v : List Access) : (s.note v).x = s.x := rfl
@[simp] theorem note_y (v : List Access) : (s.note v).y = s.y := rfl
@[simp] theorem note_sp (v : List Access) : (s.note v).sp = s.sp := rfl
@[simp] theorem note_pc (v : List Access) : (s.note v).pc = s.pc := rfl
@[simp] theorem note_flags (v : List Access) : (s.note v).flags = s.flags := rfl
@[simp] theorem note_pendingCycles (v : List Access) : (s.note v).pendingCycles = s.pendingCycles := rfl
@[simp] theorem note_halted (v : List Access) : (s.note v).halted = s.halted := rfl
@[simp] theorem note_started (v : List Access) : (s.note v).started = s.started := rfl
@[simp] theorem note_nmiLatch (v : List Access) : (s.note v).nmiLatch = s.nmiLatch := rfl
@[simp] theorem note_nmiPrev (v : List Access) : (s.note v).nmiPrev = s.nmiPrev := rfl
@[simp] theorem note_mem (v : List Access) : (s.note v).mem = s.mem := rfl
@[simp] theorem note_cfg (v : List Access) : (s.note v).cfg = s.cfg := rfl
@[simp] theorem note_inputs (v : List Access) : (s.note v).inputs = s.inputs := rfl
@[simp] theorem note_bus (v : List Access) : (s.note v).bus = s.bus ++ v := rfl
@[simp] theorem note_result (v : List Access) : (s.note v).result = s.result := rfl

/-! `report` -/

@[simp] theorem report_a (v : StepResult) : (s.report v).a = s.a := rfl
@[simp] theorem report_x (v : StepResult) : (s.report v).x = s.x := rfl
@[simp] theorem report_y (v : StepResult) : (s.report v).y = s.y := rfl
@[simp] theorem report_sp (v : StepResult) : (s.report v).sp = s.sp := rfl
@[simp] theorem report_pc (v : StepResult) : (s.report v).pc = s.pc := rfl
@[simp] theorem report_flags (v : StepResult) : (s.report v).flags = s.flags := rfl
@[simp] theorem report_pendingCycles (v : StepResult) : (s.report v).pendingCycles = s.pendingCycles := rfl
@[simp] theorem report_halted (v : StepResult) : (s.report v).halted = s.halted := rfl
@[simp] theorem report_started (v : StepResult) : (s.report v).started = s.started := rfl
@[simp] theorem report_nmiLatch (v : StepResult) : (s.report v).nmiLatch = s.nmiLatch := rfl
@[simp] theorem report_nmiPrev (v : StepResult) : (s.report v).nmiPrev = s.nmiPrev := rfl
@[simp] theorem report_mem (v : StepResult) : (s.report v).mem = s.mem := rfl
@[simp] theorem report_cfg (v : StepResult) : (s.report v).cfg = s.cfg := rfl
@[simp] theorem report_inputs (v : StepResult) : (s.report v).inputs = s.inputs := rfl
@[simp] theorem report_bus (v : StepResult) : (s.report v).bus = s.bus := rfl
@[simp] theorem report_result (v : StepResult) : (s.report v).result = some v := rfl

/-! Composition -/

@[simp] theorem note_nil : s.note [] = s := by cases s; simp [note]

@[simp] theorem note_note (l m : List Access) : (s.note l).note m = s.note (l ++ m) := by
  simp [note, List.append_assoc]

@[simp] theorem setMem_setMem (m m' : Platform) : (s.setMem m).setMem m' = s.setMem m' := rfl

@[simp] theorem setA_note (v : Byte) (l : List Access) : (s.note l).setA v = (s.setA v).note l := rfl
@[simp] theorem setX_note (v : Byte) (l : List Access) : (s.note l).setX v = (s.setX v).note l := rfl
@[simp] theorem setY_note (v : Byte) (l : List Access) : (s.note l).setY v = (s.setY v).note l := rfl
@[simp] theorem setSP_note (v : Byte) (l : List Access) : (s.note l).setSP v = (s.setSP v).note l := rfl
@[simp] theorem setPC_note (v : Word) (l : List Access) : (s.note l).setPC v = (s.setPC v).note l := rfl
@[simp] theorem setFlags_note (v : Flags) (l : List Access) : (s.note l).setFlags v = (s.setFlags v).note l := rfl
@[simp] theorem setMem_note (v : Platform) (l : List Access) : (s.note l).setMem v = (s.setMem v).note l := rfl

end Sys2Proof.Machine.State
end

