-- ==== Sys2Proof/Laws/Ops.lean ====
section
/-! SUPPORT. What each shared operation of Machine/Ops.lean and Machine/Flags.lean answers, said once in the primitive
updates, so that later proofs cite these lemmas and do not unfold the operations. -/

namespace Sys2Proof.Machine.State

variable (s : State)

@[simp] theorem afterMoves_eq {α : Type} (w : Moved α) : s.afterMoves w = (s.setMem w.mem).note w.accesses := rfl

@[simp] theorem busRead_eq (a : Word) :
    s.busRead a = ((s.mem.read a).1, (s.setMem (s.mem.read a).2).note [.read a (s.mem.read a).1]) := rfl

@[simp] theorem busWrite_eq (a : Word) (v : Byte) :
    s.busWrite a v = (s.setMem (s.mem.write a v)).note [.write a v] := rfl

@[simp] theorem advance_eq (n : Nat) : s.advance n = s.setPC (s.pc + BitVec.ofNat 16 n) := rfl

theorem read16_eq (a : Word) :
    let w := s.mem.readWord a (a + 1)
    s.read16 a = (w.value, s.afterMoves w) := by
  simp [read16, Platform.readWord, Platform.readByte]

theorem read16ZP_eq (z : Byte) :
    let w := s.mem.readWord (zext16 z) (zext16 (z + 1))
    s.read16ZP z = (w.value, s.afterMoves w) := by
  simp [read16ZP, Platform.readWord, Platform.readByte]

theorem read16Bug_eq (a : Word) :
    let w := s.mem.readWord a (joinBytes (hiByte a) (loByte a + 1))
    s.read16Bug a = (w.value, s.afterMoves w) := by
  simp [read16Bug, Platform.readWord, Platform.readByte]

/-- A stack address is 0x0100 + SP with no carry out of the page (47_stack_flags_system.md R274). -/
theorem stackAddr_toNat (sp : Byte) : (stackAddr sp).toNat = 0x0100 + sp.toNat := by
  have := sp.isLt
  simp [stackAddr, zext16]
  omega

/-- Different stack pointers name different stack addresses. -/
theorem stackAddr_inj {p q : Byte} : stackAddr p = stackAddr q ↔ p = q := by
  constructor
  · intro h
    have := congrArg BitVec.toNat h
    rw [stackAddr_toNat, stackAddr_toNat] at this
    exact BitVec.eq_of_toNat_eq (by omega)
  · rintro rfl; rfl

theorem push_eq (v : Byte) :
    s.push v = ((s.setMem (s.mem.write (stackAddr s.sp) v)).setSP (s.sp - 1)).note [.write (stackAddr s.sp) v] := rfl

theorem pull_eq :
    let b := s.mem.readByte (stackAddr (s.sp + 1))
    s.pull = (b.value, (s.setSP (s.sp + 1)).afterMoves b) := rfl

/-- A push keeps the canonical form. -/
theorem push_mem_wf (h : s.mem.ram.wf = true) (v : Byte) : (s.push v).mem.ram.wf = true := Platform.write_wf h _ v

@[simp] theorem push_pc (v : Byte) : (s.push v).pc = s.pc := rfl
@[simp] theorem push_sp (v : Byte) : (s.push v).sp = s.sp - 1 := rfl
@[simp] theorem push_flags (v : Byte) : (s.push v).flags = s.flags := rfl
@[simp] theorem push_mem (v : Byte) : (s.push v).mem = s.mem.write (stackAddr s.sp) v := rfl

theorem sub_one_sub_one (b : Byte) : b - 1 - 1 = b - 2 := by bv_omega
theorem sub_two_sub_one (b : Byte) : b - 2 - 1 = b - 3 := by bv_omega
theorem add_one_add_one (b : Byte) : b + 1 + 1 = b + 2 := by bv_omega
theorem add_two_add_one (b : Byte) : b + 2 + 1 = b + 3 := by bv_omega

/-- Everything trap entry does: three pushes, I set, PC from the vector, and the five accesses in order. -/
theorem enterTrap_eq (ra : Word) (status : Byte) (vector : Word) :
    let m := ((s.mem.write (stackAddr s.sp) (hiByte ra)).write (stackAddr (s.sp - 1)) (loByte ra)).write
      (stackAddr (s.sp - 2)) status
    let entry := m.readWord vector (vector + 1)
    s.enterTrap ra status vector =
      { s with
        mem := entry.mem
        sp := s.sp - 3
        flags := { s.flags with i := true }
        pc := entry.value
        bus := s.bus ++
          [.write (stackAddr s.sp) (hiByte ra), .write (stackAddr (s.sp - 1)) (loByte ra),
            .write (stackAddr (s.sp - 2)) status] ++ entry.accesses } := by
  simp only [enterTrap, read16_eq, push_eq, setSP_sp, note_sp, setSP_mem, setMem_mem, note_mem,
    setFlags_mem, sub_one_sub_one, sub_two_sub_one]
  simp only [afterMoves_eq, setPC, setFlags, setSP, setMem, note, List.append_assoc, List.cons_append, List.nil_append]

theorem enterTrap_mem_wf (h : s.mem.ram.wf = true) (ra : Word) (status : Byte) (vector : Word) :
    (s.enterTrap ra status vector).mem.ram.wf = true := by
  simp only [enterTrap_eq, Platform.readWord_ram]
  exact Platform.write_wf (Platform.write_wf (Platform.write_wf h _ _) _ _) _ _

/-- Everything the return from a trap does: three pulls. -/
theorem returnFromTrap_eq :
    let status := s.mem.readByte (stackAddr (s.sp + 1))
    let target := status.mem.readWord (stackAddr (s.sp + 2)) (stackAddr (s.sp + 3))
    s.returnFromTrap =
      { s with
        mem := target.mem
        sp := s.sp + 3
        flags := s.flags.unpackPulled status.value
        pc := target.value
        bus := s.bus ++ status.accesses ++ target.accesses } := by
  rw [← add_two_add_one, ← add_one_add_one]
  simp [returnFromTrap, pull_eq, setPC, setFlags, setSP, setMem, note, Platform.readWord]

@[simp] theorem setNZ_eq (r : Byte) : s.setNZ r = s.setFlags { s.flags with n := negOf r, z := zeroOf r } := rfl

@[simp] theorem setC_eq (v : Bool) : s.setC v = s.setFlags { s.flags with c := v } := rfl

@[simp] theorem applyArith_eq (o : ArithResult) :
    s.applyArith o = (s.setA o.r).setFlags { s.flags with c := o.c, v := o.v, n := o.n, z := o.z } := rfl

@[simp] theorem applyCompare_eq (o : CompareResult) :
    s.applyCompare o = s.setFlags { s.flags with c := o.c, n := o.n, z := o.z } := rfl

@[simp] theorem applyBit_eq (o : BitResult) :
    s.applyBit o = s.setFlags { s.flags with z := o.z, n := o.n, v := o.v } := rfl

end Sys2Proof.Machine.State

namespace Sys2Proof.Machine

/-! The codec of the status byte, bit by bit (10_state.md R36). -/

@[simp] theorem unpack_pack (f : Flags) : Flags.unpack f.pack = f := by
  obtain ⟨n, v, b, d, i, z, c⟩ := f
  cases n <;> cases v <;> cases b <;> cases d <;> cases i <;> cases z <;> cases c <;> rfl

end Sys2Proof.Machine
end

