-- ==== Sys2Proof/Laws/Operands.lean ====
section
/-! SUPPORT. The resolver and the three access patterns compared with the pure functions of Safety.lean
(41_addressing_modes.md R141 to R150, R154). -/

namespace Sys2Proof.Machine.State

variable (s : State)

theorem zext16_eq (b : Byte) : zext16 b = BitVec.ofNat 16 b.toNat := by
  apply BitVec.eq_of_toNat_eq
  simp [zext16]

theorem add_zext16 (w : Word) (b : Byte) : w + zext16 b = BitVec.ofNat 16 (w.toNat + b.toNat) := by
  apply BitVec.eq_of_toNat_eq
  simp [zext16]

theorem zext16_add (a b : Byte) : zext16 (a + b) = BitVec.ofNat 16 ((a.toNat + b.toNat) % 256) := by
  apply BitVec.eq_of_toNat_eq
  simp [zext16]

/-- The resolver gives the effective address and makes only the pointer reads. -/
theorem resolve_eq (op : Operand) :
    s.resolve op = ((s.effectiveAddress op).value, s.afterMoves (s.effectiveAddress op)) := by
  cases op with
  | imm b => simp [resolve, effectiveAddress, setMem, ← BitVec.toNat_inj]
  | zp b => simp [resolve, effectiveAddress, setMem, zext16_eq]
  | zpx b => simp only [resolve, effectiveAddress, zext16_add, afterMoves_eq, setMem, note_nil]
  | zpy b => simp only [resolve, effectiveAddress, zext16_add, afterMoves_eq, setMem, note_nil]
  | abs w => simp [resolve, effectiveAddress, setMem]
  | absx w => simp only [resolve, effectiveAddress, add_zext16, afterMoves_eq, setMem, note_nil]
  | absy w => simp only [resolve, effectiveAddress, add_zext16, afterMoves_eq, setMem, note_nil]
  | indx b => simp only [resolve, effectiveAddress, read16ZP_eq]
  | indy b => simp [resolve, effectiveAddress, read16ZP_eq, add_zext16]

/-- `LoadOperand()` gives the operand and makes only its own reads. -/
theorem loadOperand_eq (op : Operand) : s.loadOperand op = ((s.loaded op).value, s.afterMoves (s.loaded op)) := by
  cases op with
  | imm b => simp [loadOperand, loaded, setMem]
  | _ => simp [loadOperand, resolve_eq, loaded, operandInMemory, Platform.readByte]

/-- `StoreOperand(v)` makes the pointer reads and writes one byte, at the effective address. -/
theorem storeOperand_eq (op : Operand) (v : Byte) : s.storeOperand op v = s.afterMoves (s.stored op v) := by
  simp [storeOperand, resolve_eq, stored]

/-- `Modify(f)` makes the pointer reads, reads one byte and writes one byte, at the effective address. -/
theorem modifyOperand_eq (op : Operand) (f : Byte → Byte) :
    let old := (s.operandInMemory op).value
    s.modifyOperand op f = (old, f old, s.afterMoves (s.modified op (f old))) := by
  simp [modifyOperand, resolve_eq, modified, operandInMemory, Platform.readByte]

/-- A shift of a memory operand: the one read and write of `Modify`, and C the bit shifted out. -/
theorem shiftOperand_eq (op : Operand) (f : Byte → ShiftResult) :
    let o := f (s.operandInMemory op).value
    s.shiftOperand op f = (o.r, (s.afterMoves (s.modified op o.r)).setFlags { s.flags with c := o.c }) := by
  simp [shiftOperand, modifyOperand_eq]

/-! What the accesses of an operand keep, and that their list replays them -/

@[simp] theorem effectiveAddress_ram (op : Operand) : (s.effectiveAddress op).mem.ram = s.mem.ram := by
  cases op <;> simp [effectiveAddress]

@[simp] theorem effectiveAddress_hooks (op : Operand) : (s.effectiveAddress op).mem.hooks = s.mem.hooks := by
  cases op <;> simp [effectiveAddress]

@[simp] theorem operandInMemory_ram (op : Operand) : (s.operandInMemory op).mem.ram = s.mem.ram := by
  simp [operandInMemory]

@[simp] theorem operandInMemory_hooks (op : Operand) : (s.operandInMemory op).mem.hooks = s.mem.hooks := by
  simp [operandInMemory]

@[simp] theorem loaded_ram (op : Operand) : (s.loaded op).mem.ram = s.mem.ram := by
  cases op <;> simp [loaded]

@[simp] theorem loaded_hooks (op : Operand) : (s.loaded op).mem.hooks = s.mem.hooks := by
  cases op <;> simp [loaded]

/-- A store keeps the canonical form. -/
theorem stored_mem_wf (h : s.mem.ram.wf = true) (op : Operand) (v : Byte) : (s.stored op v).mem.ram.wf = true :=
  Platform.write_wf (by simpa using h) _ v

/-- A read-modify-write keeps the canonical form. -/
theorem modified_mem_wf (h : s.mem.ram.wf = true) (op : Operand) (v : Byte) : (s.modified op v).mem.ram.wf = true :=
  Platform.write_wf (by simpa using h) _ v

@[simp] theorem replay_effectiveAddress (op : Operand) :
    s.mem.replay (s.effectiveAddress op).accesses = some (s.effectiveAddress op).mem := by
  cases op <;> simp [effectiveAddress, Platform.replay]

@[simp] theorem replay_operandInMemory (op : Operand) :
    s.mem.replay (s.operandInMemory op).accesses = some (s.operandInMemory op).mem := by
  simp [operandInMemory, Platform.replay_append]

@[simp] theorem replay_loaded (op : Operand) : s.mem.replay (s.loaded op).accesses = some (s.loaded op).mem := by
  cases op <;> simp [loaded, Platform.replay]

@[simp] theorem replay_stored (op : Operand) (v : Byte) :
    s.mem.replay (s.stored op v).accesses = some (s.stored op v).mem := by
  simp [stored, Platform.replay_append, Platform.replay]

@[simp] theorem replay_modified (op : Operand) (v : Byte) :
    s.mem.replay (s.modified op v).accesses = some (s.modified op v).mem := by
  simp [modified, Platform.replay_append, Platform.replay]

/-- A shift of A: A, C the bit shifted out, N and Z of the new A. -/
theorem shiftAcc_eq (f : Byte → ShiftResult) :
    s.shiftAcc f =
      (s.setA (f s.a).r).setFlags { s.flags with c := (f s.a).c, n := negOf (f s.a).r, z := zeroOf (f s.a).r } := rfl

/-- A branch writes PC and nothing else. -/
theorem branch_eq (cond : Bool) (off : Byte) :
    s.branch cond off = s.setPC (if cond then s.relativeTarget off else s.pc + 2) := by
  cases cond <;> rfl

end Sys2Proof.Machine.State
end

