-- ==== Sys2Proof/Laws/PerInstr.lean ====
section
/-! SUPPORT. The statements made of every instruction, one lemma for each constructor of `Instr`. -/

namespace Sys2Proof.Laws.Encodable

/-- An instruction that opcode_table.json can express has an encoding, of one opcode byte and its operand bytes, as
long as its mode says (30_encoding.md R81, R83, R87, R88; 41_addressing_modes.md R156); any other has none. -/
def Statement (i : Instr) : Prop :=
  match encode i with
  | some bytes => i.wellFormed = true ∧ bytes.length = i.length
  | none => i.wellFormed = false

theorem lda (op : Operand) : Statement (.lda op) := by cases op <;> first | exact ⟨rfl, rfl⟩ | exact rfl

theorem ldx (op : Operand) : Statement (.ldx op) := by cases op <;> first | exact ⟨rfl, rfl⟩ | exact rfl

theorem ldy (op : Operand) : Statement (.ldy op) := by cases op <;> first | exact ⟨rfl, rfl⟩ | exact rfl

theorem sta (op : Operand) : Statement (.sta op) := by cases op <;> first | exact ⟨rfl, rfl⟩ | exact rfl

theorem stx (op : Operand) : Statement (.stx op) := by cases op <;> first | exact ⟨rfl, rfl⟩ | exact rfl

theorem sty (op : Operand) : Statement (.sty op) := by cases op <;> first | exact ⟨rfl, rfl⟩ | exact rfl

theorem tax : Statement .tax := ⟨rfl, rfl⟩

theorem tay : Statement .tay := ⟨rfl, rfl⟩

theorem txa : Statement .txa := ⟨rfl, rfl⟩

theorem tya : Statement .tya := ⟨rfl, rfl⟩

theorem tsx : Statement .tsx := ⟨rfl, rfl⟩

theorem txs : Statement .txs := ⟨rfl, rfl⟩

theorem adc (op : Operand) : Statement (.adc op) := by cases op <;> first | exact ⟨rfl, rfl⟩ | exact rfl

theorem sbc (op : Operand) : Statement (.sbc op) := by cases op <;> first | exact ⟨rfl, rfl⟩ | exact rfl

theorem and (op : Operand) : Statement (.and op) := by cases op <;> first | exact ⟨rfl, rfl⟩ | exact rfl

theorem ora (op : Operand) : Statement (.ora op) := by cases op <;> first | exact ⟨rfl, rfl⟩ | exact rfl

theorem eor (op : Operand) : Statement (.eor op) := by cases op <;> first | exact ⟨rfl, rfl⟩ | exact rfl

theorem bit (op : Operand) : Statement (.bit op) := by cases op <;> first | exact ⟨rfl, rfl⟩ | exact rfl

theorem cmp (op : Operand) : Statement (.cmp op) := by cases op <;> first | exact ⟨rfl, rfl⟩ | exact rfl

theorem cpx (op : Operand) : Statement (.cpx op) := by cases op <;> first | exact ⟨rfl, rfl⟩ | exact rfl

theorem cpy (op : Operand) : Statement (.cpy op) := by cases op <;> first | exact ⟨rfl, rfl⟩ | exact rfl

theorem aslAcc : Statement .aslAcc := ⟨rfl, rfl⟩

theorem asl (op : Operand) : Statement (.asl op) := by cases op <;> first | exact ⟨rfl, rfl⟩ | exact rfl

theorem lsrAcc : Statement .lsrAcc := ⟨rfl, rfl⟩

theorem lsr (op : Operand) : Statement (.lsr op) := by cases op <;> first | exact ⟨rfl, rfl⟩ | exact rfl

theorem rolAcc : Statement .rolAcc := ⟨rfl, rfl⟩

theorem rol (op : Operand) : Statement (.rol op) := by cases op <;> first | exact ⟨rfl, rfl⟩ | exact rfl

theorem rorAcc : Statement .rorAcc := ⟨rfl, rfl⟩

theorem ror (op : Operand) : Statement (.ror op) := by cases op <;> first | exact ⟨rfl, rfl⟩ | exact rfl

theorem inc (op : Operand) : Statement (.inc op) := by cases op <;> first | exact ⟨rfl, rfl⟩ | exact rfl

theorem dec (op : Operand) : Statement (.dec op) := by cases op <;> first | exact ⟨rfl, rfl⟩ | exact rfl

theorem inx : Statement .inx := ⟨rfl, rfl⟩

theorem iny : Statement .iny := ⟨rfl, rfl⟩

theorem dex : Statement .dex := ⟨rfl, rfl⟩

theorem dey : Statement .dey := ⟨rfl, rfl⟩

theorem jmp (target : Word) : Statement (.jmp target) := ⟨rfl, rfl⟩

theorem jmpInd (ptr : Word) : Statement (.jmpInd ptr) := ⟨rfl, rfl⟩

theorem jsr (target : Word) : Statement (.jsr target) := ⟨rfl, rfl⟩

theorem rts : Statement .rts := ⟨rfl, rfl⟩

theorem bcc (off : Byte) : Statement (.bcc off) := ⟨rfl, rfl⟩

theorem bcs (off : Byte) : Statement (.bcs off) := ⟨rfl, rfl⟩

theorem beq (off : Byte) : Statement (.beq off) := ⟨rfl, rfl⟩

theorem bne (off : Byte) : Statement (.bne off) := ⟨rfl, rfl⟩

theorem bmi (off : Byte) : Statement (.bmi off) := ⟨rfl, rfl⟩

theorem bpl (off : Byte) : Statement (.bpl off) := ⟨rfl, rfl⟩

theorem bvc (off : Byte) : Statement (.bvc off) := ⟨rfl, rfl⟩

theorem bvs (off : Byte) : Statement (.bvs off) := ⟨rfl, rfl⟩

theorem pha : Statement .pha := ⟨rfl, rfl⟩

theorem php : Statement .php := ⟨rfl, rfl⟩

theorem pla : Statement .pla := ⟨rfl, rfl⟩

theorem plp : Statement .plp := ⟨rfl, rfl⟩

theorem clc : Statement .clc := ⟨rfl, rfl⟩

theorem sec : Statement .sec := ⟨rfl, rfl⟩

theorem cli : Statement .cli := ⟨rfl, rfl⟩

theorem sei : Statement .sei := ⟨rfl, rfl⟩

theorem clv : Statement .clv := ⟨rfl, rfl⟩

theorem cld : Statement .cld := ⟨rfl, rfl⟩

theorem sed : Statement .sed := ⟨rfl, rfl⟩

theorem nop : Statement .nop := ⟨rfl, rfl⟩

theorem brk : Statement .brk := ⟨rfl, rfl⟩

theorem rti : Statement .rti := ⟨rfl, rfl⟩

theorem lax (op : Operand) : Statement (.lax op) := by cases op <;> first | exact ⟨rfl, rfl⟩ | exact rfl

theorem sax (op : Operand) : Statement (.sax op) := by cases op <;> first | exact ⟨rfl, rfl⟩ | exact rfl

theorem dcp (op : Operand) : Statement (.dcp op) := by cases op <;> first | exact ⟨rfl, rfl⟩ | exact rfl

theorem isb (op : Operand) : Statement (.isb op) := by cases op <;> first | exact ⟨rfl, rfl⟩ | exact rfl

theorem slo (op : Operand) : Statement (.slo op) := by cases op <;> first | exact ⟨rfl, rfl⟩ | exact rfl

theorem rla (op : Operand) : Statement (.rla op) := by cases op <;> first | exact ⟨rfl, rfl⟩ | exact rfl

theorem sre (op : Operand) : Statement (.sre op) := by cases op <;> first | exact ⟨rfl, rfl⟩ | exact rfl

theorem rra (op : Operand) : Statement (.rra op) := by cases op <;> first | exact ⟨rfl, rfl⟩ | exact rfl

end Sys2Proof.Laws.Encodable
end

