-- ==== Sys2Proof/Laws/Tick.lean ====
section
/-! SUPPORT. The parts of a `step()` call: sampling changes only the NMI bits and the schedule, a ready state reaches the
fetch, and the fetch reads the instruction's own bytes and nothing else. -/

namespace Sys2Proof.Machine.State

variable (s : State)

/-! Sampling -/

@[simp] theorem sampleLines_a : s.sampleLines.a = s.a := by
  unfold sampleLines; split <;> rfl

@[simp] theorem sampleLines_x : s.sampleLines.x = s.x := by
  unfold sampleLines; split <;> rfl

@[simp] theorem sampleLines_y : s.sampleLines.y = s.y := by
  unfold sampleLines; split <;> rfl

@[simp] theorem sampleLines_sp : s.sampleLines.sp = s.sp := by
  unfold sampleLines; split <;> rfl

@[simp] theorem sampleLines_pc : s.sampleLines.pc = s.pc := by
  unfold sampleLines; split <;> rfl

@[simp] theorem sampleLines_flags : s.sampleLines.flags = s.flags := by
  unfold sampleLines; split <;> rfl

@[simp] theorem sampleLines_pendingCycles : s.sampleLines.pendingCycles = s.pendingCycles := by
  unfold sampleLines; split <;> rfl

@[simp] theorem sampleLines_halted : s.sampleLines.halted = s.halted := by
  unfold sampleLines; split <;> rfl

@[simp] theorem sampleLines_started : s.sampleLines.started = s.started := by
  unfold sampleLines; split <;> rfl

@[simp] theorem sampleLines_mem : s.sampleLines.mem = s.mem := by
  unfold sampleLines; split <;> rfl

@[simp] theorem sampleLines_cfg : s.sampleLines.cfg = s.cfg := by
  unfold sampleLines; split <;> rfl

@[simp] theorem sampleLines_bus : s.sampleLines.bus = s.bus := by
  unfold sampleLines; split <;> rfl

@[simp] theorem sampleLines_result : s.sampleLines.result = s.result := by
  unfold sampleLines; split <;> rfl

@[simp] theorem beginTick_a : s.beginTick.a = s.a := by simp [beginTick]

@[simp] theorem beginTick_x : s.beginTick.x = s.x := by simp [beginTick]

@[simp] theorem beginTick_y : s.beginTick.y = s.y := by simp [beginTick]

@[simp] theorem beginTick_sp : s.beginTick.sp = s.sp := by simp [beginTick]

@[simp] theorem beginTick_pc : s.beginTick.pc = s.pc := by simp [beginTick]

@[simp] theorem beginTick_flags : s.beginTick.flags = s.flags := by simp [beginTick]

@[simp] theorem beginTick_pendingCycles : s.beginTick.pendingCycles = s.pendingCycles := by simp [beginTick]

@[simp] theorem beginTick_halted : s.beginTick.halted = s.halted := by simp [beginTick]

@[simp] theorem beginTick_started : s.beginTick.started = s.started := by simp [beginTick]

@[simp] theorem beginTick_mem : s.beginTick.mem = s.mem := by simp [beginTick]

@[simp] theorem beginTick_cfg : s.beginTick.cfg = s.cfg := by simp [beginTick]

@[simp] theorem beginTick_result : s.beginTick.result = s.result := by simp [beginTick]

@[simp] theorem beginTick_bus : s.beginTick.bus = [] := rfl

@[simp] theorem beginTick_nmiLatch : s.beginTick.nmiLatch = s.sampleLines.nmiLatch := rfl

@[simp] theorem beginTick_nmiPrev : s.beginTick.nmiPrev = s.sampleLines.nmiPrev := rfl

@[simp] theorem beginTick_inputs : s.beginTick.inputs = s.sampleLines.inputs := rfl

/-- Without interrupt inputs sampling changes nothing. -/
theorem sampleLines_of_no_inputs (h : s.cfg.hasInterruptInputs = false) : s.sampleLines = s := by
  simp [sampleLines, h]

/-- Without interrupt inputs none is accepted. -/
theorem accepted_of_no_inputs (h : s.cfg.hasInterruptInputs = false) (l : Lines) : s.accepted l = none := by
  simp [accepted, h]

/-- Everything an interrupt entry does: the shared trap entry, and an NMI clears its latch (60_exceptions.md R308). -/
theorem enterInterrupt_eq (k : Interrupt) :
    s.enterInterrupt k =
      { s.enterTrap s.pc s.statusForInterrupt k.vector with nmiLatch := if k = .nmi then false else s.nmiLatch } := by
  cases k <;> simp [enterInterrupt, enterTrap_eq]

/-- An interrupt entry keeps the canonical form. -/
theorem enterInterrupt_mem_wf (h : s.mem.ram.wf = true) (k : Interrupt) : (s.enterInterrupt k).mem.ram.wf = true := by
  rw [enterInterrupt_eq]
  exact enterTrap_mem_wf s h s.pc s.statusForInterrupt k.vector

@[simp] theorem enterInterrupt_halted (k : Interrupt) : (s.enterInterrupt k).halted = s.halted := by
  simp [enterInterrupt_eq, enterTrap_eq]

@[simp] theorem enterInterrupt_started (k : Interrupt) : (s.enterInterrupt k).started = s.started := by
  simp [enterInterrupt_eq, enterTrap_eq]

@[simp] theorem enterInterrupt_cfg (k : Interrupt) : (s.enterInterrupt k).cfg = s.cfg := by
  simp [enterInterrupt_eq, enterTrap_eq]

@[simp] theorem enterInterrupt_nmiPrev (k : Interrupt) : (s.enterInterrupt k).nmiPrev = s.nmiPrev := by
  simp [enterInterrupt_eq, enterTrap_eq]

@[simp] theorem enterInterrupt_inputs (k : Interrupt) : (s.enterInterrupt k).inputs = s.inputs := by
  simp [enterInterrupt_eq, enterTrap_eq]

@[simp] theorem enterInterrupt_flags (k : Interrupt) : (s.enterInterrupt k).flags = { s.flags with i := true } := by
  simp [enterInterrupt_eq, enterTrap_eq]

/-! What the call returns -/

@[simp] theorem bankCycles_result (c : Nat) : (s.bankCycles c).result = some (.ran c) := rfl
@[simp] theorem bankCycles_pendingCycles (c : Nat) : (s.bankCycles c).pendingCycles = c - 1 := rfl
@[simp] theorem bankCycles_mem (c : Nat) : (s.bankCycles c).mem = s.mem := rfl
@[simp] theorem bankCycles_flags (c : Nat) : (s.bankCycles c).flags = s.flags := rfl
@[simp] theorem bankCycles_cfg (c : Nat) : (s.bankCycles c).cfg = s.cfg := rfl
@[simp] theorem bankCycles_bus (c : Nat) : (s.bankCycles c).bus = s.bus := rfl
@[simp] theorem bankCycles_started (c : Nat) : (s.bankCycles c).started = s.started := rfl
@[simp] theorem bankCycles_halted (c : Nat) : (s.bankCycles c).halted = s.halted := rfl

/-! Placing a program -/

/-- Placing bytes keeps the canonical form. -/
theorem placeBytes_mem_wf (bytes : List Byte) :
    ∀ (s : State) (addr : Word), s.mem.ram.wf = true → (s.placeBytes addr bytes).mem.ram.wf = true := by
  induction bytes with
  | nil => intro s addr h; exact h
  | cons b bs ih => intro s addr h; exact ih _ _ (Memory.write_word_wf h addr b)

/-- Placing bytes changes nothing but the byte array. -/
theorem placeBytes_eq (bytes : List Byte) :
    ∀ (s : State) (addr : Word),
      s.placeBytes addr bytes = { s with mem := { s.mem with ram := (s.placeBytes addr bytes).mem.ram } } := by
  induction bytes with
  | nil => intro s addr; rfl
  | cons b bs ih => intro s addr; exact ih { s with mem := { s.mem with ram := s.mem.ram.write addr.toNat b } } (addr + 1)

/-- `readyToFetch` reaches the fetch from any state. -/
theorem readyToFetch_ready : s.readyToFetch.Ready := by
  refine ⟨rfl, rfl, rfl, ?_, ?_⟩
  · simp only [readyToFetch]
    split <;> simp_all
  · cases h : s.cfg.hasInterruptInputs <;>
      by_cases ha : s.cfg.haltAddr = some s.pc <;>
      simp [accepted, beginTick, sampleLines, readyToFetch, lines, h, ha]

/-- After `readyToFetch` PC and the two addresses after it are in RAM. -/
theorem readyToFetch_unhooked :
    s.readyToFetch.mem.hooked s.pc = false ∧ s.readyToFetch.mem.hooked (s.pc + 1) = false ∧
      s.readyToFetch.mem.hooked (s.pc + 2) = false := by
  simp only [readyToFetch, Platform.hooked, List.any_filter, List.any_eq_false]
  refine ⟨?_, ?_, ?_⟩ <;> intro h _ <;> cases h.covers s.pc <;> cases h.covers (s.pc + 1) <;>
    cases h.covers (s.pc + 2) <;> simp

end Sys2Proof.Machine.State

namespace Sys2Proof.Machine

/-- A ready state reaches the fetch. -/
theorem step_of_ready {s : State} (h : s.Ready) : step s = fetchAndExecute s.beginTick := by
  obtain ⟨h1, h2, h3, h4, h5⟩ := h
  simp [step, h1, h2, h3, h4, h5]

/-- The cases of a call of `step()` after `reset()`, in the order of 60_exceptions.md R311. -/
theorem step_cases {s : State} (h : s.started = true) :
    (s.pendingCycles > 0 ∧ step s = .next s.beginTick.drain) ∨
    (s.pendingCycles = 0 ∧ s.halted = true ∧ step s = .next (s.beginTick.report (.halted none))) ∨
    (s.pendingCycles = 0 ∧ s.halted = false ∧ s.cfg.haltAddr = some s.pc ∧
      step s = .next (s.beginTick.enterHalted .haltAddressReached)) ∨
    (s.pendingCycles = 0 ∧ s.halted = false ∧ s.cfg.haltAddr ≠ some s.pc ∧ ∃ k,
      s.beginTick.accepted s.lines = some k ∧ step s = .next ((s.beginTick.enterInterrupt k).bankCycles 7)) ∨
    (s.Ready ∧ step s = fetchAndExecute s.beginTick) := by
  by_cases hp : s.pendingCycles > 0
  · exact .inl ⟨hp, by simp [step, h, hp]⟩
  have hp0 : s.pendingCycles = 0 := by omega
  by_cases hh : s.halted = true
  · exact .inr (.inl ⟨hp0, hh, by simp [step, h, hp0, hh]⟩)
  have hh0 : s.halted = false := by simpa using hh
  by_cases ha : s.cfg.haltAddr = some s.pc
  · exact .inr (.inr (.inl ⟨hp0, hh0, ha, by simp [step, h, hp0, hh0, ha]⟩))
  cases hk : s.beginTick.accepted s.lines with
  | some k => exact .inr (.inr (.inr (.inl ⟨hp0, hh0, ha, k, rfl, by simp [step, h, hp0, hh0, ha, hk]⟩)))
  | none =>
    have hr : s.Ready := ⟨h, hp0, hh0, ha, hk⟩
    exact .inr (.inr (.inr (.inr ⟨hr, step_of_ready hr⟩)))

/-- Modes have length 1, 2 or 3. -/
theorem Mode.length_cases (m : Mode) : m.length = 1 ∨ m.length = 2 ∨ m.length = 3 := by
  rcases m with m | _ | _ | _ | _
  · cases m <;> simp [Mode.length]
  all_goals simp [Mode.length]

/-- The fetch of a populated opcode gives the row's instruction and cycles and reads the instruction's own bytes. -/
theorem fetch_of_row {s : State} {row : Row} (h : lookupOpcode (s.byteAt s.pc) = some row) :
    let w := s.mem.readAll ((List.range row.length).map fun k => s.pc + BitVec.ofNat 16 k)
    s.fetch = (some (row.instr (w.value.getD 1 0) (w.value.getD 2 0), row.cycles), s.afterMoves w) := by
  have h' : lookupOpcode (s.mem.read s.pc).1 = some row := h
  rcases Mode.length_cases row.mode with hl | hl | hl <;>
    simp [State.fetch, h', Row.length, hl, List.range, List.range.loop, Platform.readAll, Platform.readByte]

/-- The fetch of an undefined opcode makes the one read of the opcode byte. -/
theorem fetch_of_none {s : State} (h : lookupOpcode (s.byteAt s.pc) = none) :
    s.fetch = (none, s.afterMoves (s.mem.readByte s.pc)) := by
  have h' : lookupOpcode (s.mem.read s.pc).1 = none := h
  simp [State.fetch, h', Platform.readByte]

/-- What decodes at PC is the instruction of the row of the byte at PC with the bytes after it. -/
theorem decode_bytesAtPC {s : State} {i : Instr} {rest : List Byte} (h : decode s.bytesAtPC = .ok (i, rest)) :
    ∃ row, lookupOpcode (s.byteAt s.pc) = some row ∧ i.length = row.length ∧
      i = row.instr
        ((s.mem.readAll ((List.range row.length).map fun k => s.pc + BitVec.ofNat 16 k)).value.getD 1 0)
        ((s.mem.readAll ((List.range row.length).map fun k => s.pc + BitVec.ofNat 16 k)).value.getD 2 0) := by
  simp only [decode, State.bytesAtPC, Platform.readAll, Platform.readByte] at h
  cases hr : lookupOpcode (s.mem.read s.pc).1 with
  | none => simp [hr] at h
  | some row =>
    have hc := opcodeTable_coherent row (lookupOpcode_some hr).1
    have hlen : ∀ b1 b2, (row.instr b1 b2).length = row.length := fun b1 b2 => by
      simp [Instr.length, Row.length, (hc b1 b2).2.1]
    refine ⟨row, hr, ?_⟩
    rcases Mode.length_cases row.mode with hl | hl | hl
    all_goals
      simp only [hr, Row.length, hl, Except.ok.injEq, Prod.mk.injEq] at h
      obtain ⟨rfl, -⟩ := h
      refine ⟨hlen _ _, ?_⟩
      simp [Row.length, hl, List.range, List.range.loop, Platform.readAll, Platform.readByte]

end Sys2Proof.Machine
end

