-- ==== Sys2Proof/Laws/Run.lean ====
section
/-! SUPPORT. Runs of several calls of `step()`, one call at a time (42_execution_engine.md R170). -/

namespace Sys2Proof.Machine

/-- A run of no call is the state itself. -/
theorem run_zero (s : State) : Host.Core.run Sys2Proof.core 0 s = .next s := rfl

/-- A run whose first call answers a next state goes on from there. -/
theorem run_of_step {s t : State} (h : step s = .next t) (k : Nat) :
    Host.Core.run Sys2Proof.core (k + 1) s = Host.Core.run Sys2Proof.core k t := by
  simp only [Host.Core.run, Sys2Proof.core, h]

/-- Every row of the table takes 2 to 8 cycles (30_encoding.md R87, R88). -/
theorem opcodeTable_cycles : ∀ r ∈ opcodeTable, 2 ≤ r.cycles ∧ r.cycles ≤ 8 := by decide +kernel

end Sys2Proof.Machine
end

