-- ==== Sys2Proof/Tests/Slice0.lean ====
section
/-! SUPPORT. The model's own tests: the refusals of WellFormed, words written out from the encodings of 30_encoding.md,
one step of each instruction on the vectors of 95_test_vectors.md, and for each obligation with hypotheses a state and
operands that meet them. -/

namespace Sys2Proof.Tests.Slice0

open Sys2Proof.Machine

set_option Elab.async false

/-! ### Well-formedness (41_addressing_modes.md R156): an operand of a mode the mnemonic does not have is refused. -/

theorem test_lda_zpy_refused : (Instr.lda (.zpy 0x10)).wellFormed = false := rfl
theorem test_ldx_zpx_refused : (Instr.ldx (.zpx 0x10)).wellFormed = false := rfl
theorem test_ldy_absy_refused : (Instr.ldy (.absy 0x1234)).wellFormed = false := rfl
theorem test_sta_imm_refused : (Instr.sta (.imm 0x10)).wellFormed = false := rfl
theorem test_stx_zpx_refused : (Instr.stx (.zpx 0x10)).wellFormed = false := rfl
theorem test_sty_absx_refused : (Instr.sty (.absx 0x1234)).wellFormed = false := rfl
theorem test_bit_imm_refused : (Instr.bit (.imm 0x10)).wellFormed = false := rfl
theorem test_cpx_zpx_refused : (Instr.cpx (.zpx 0x10)).wellFormed = false := rfl
theorem test_asl_absy_refused : (Instr.asl (.absy 0x1234)).wellFormed = false := rfl
theorem test_lax_imm_refused : (Instr.lax (.imm 0x10)).wellFormed = false := rfl
theorem test_sax_indy_refused : (Instr.sax (.indy 0x10)).wellFormed = false := rfl
theorem test_dcp_imm_refused : (Instr.dcp (.imm 0x10)).wellFormed = false := rfl
theorem test_ill_formed_has_no_encoding : encode (.sta (.imm 0x10)) = none := rfl

/-! ### Decoding -/

/-- Loads and every data mode (30_encoding.md R83, R84, R87). -/
theorem test_decode_loads_every_mode :
    decode [0b10101001, 0x12] = .ok (.lda (.imm 0x12), []) ∧
    decode [0b10100101, 0x12] = .ok (.lda (.zp 0x12), []) ∧
    decode [0b10110101, 0x12] = .ok (.lda (.zpx 0x12), []) ∧
    decode [0b10101101, 0x34, 0x12] = .ok (.lda (.abs 0x1234), []) ∧
    decode [0b10111101, 0x34, 0x12] = .ok (.lda (.absx 0x1234), []) ∧
    decode [0b10111001, 0x34, 0x12] = .ok (.lda (.absy 0x1234), []) ∧
    decode [0b10100001, 0x12] = .ok (.lda (.indx 0x12), []) ∧
    decode [0b10110001, 0x12] = .ok (.lda (.indy 0x12), []) ∧
    decode [0b10110110, 0x12] = .ok (.ldx (.zpy 0x12), []) ∧
    decode [0b10100000, 0x12] = .ok (.ldy (.imm 0x12), []) := by
  and_intros <;> rfl

/-- Stores and transfers (R87). -/
theorem test_decode_stores_and_transfers :
    decode [0b10000001, 0x12] = .ok (.sta (.indx 0x12), []) ∧
    decode [0b10001110, 0x34, 0x12] = .ok (.stx (.abs 0x1234), []) ∧
    decode [0b10010100, 0x12] = .ok (.sty (.zpx 0x12), []) ∧
    decode [0b10101010] = .ok (.tax, []) ∧
    decode [0b10101000] = .ok (.tay, []) ∧
    decode [0b10001010] = .ok (.txa, []) ∧
    decode [0b10011000] = .ok (.tya, []) ∧
    decode [0b10111010] = .ok (.tsx, []) ∧
    decode [0b10011010] = .ok (.txs, []) := by
  and_intros <;> rfl

/-- Arithmetic, logic, test and compare (R87). -/
theorem test_decode_arithmetic :
    decode [0b01111001, 0x34, 0x12] = .ok (.adc (.absy 0x1234), []) ∧
    decode [0b11110001, 0x12] = .ok (.sbc (.indy 0x12), []) ∧
    decode [0b00110101, 0x12] = .ok (.and (.zpx 0x12), []) ∧
    decode [0b00000001, 0x12] = .ok (.ora (.indx 0x12), []) ∧
    decode [0b01011101, 0x34, 0x12] = .ok (.eor (.absx 0x1234), []) ∧
    decode [0b00101100, 0x34, 0x12] = .ok (.bit (.abs 0x1234), []) ∧
    decode [0b11000101, 0x12] = .ok (.cmp (.zp 0x12), []) ∧
    decode [0b11101100, 0x34, 0x12] = .ok (.cpx (.abs 0x1234), []) ∧
    decode [0b11000000, 0x12] = .ok (.cpy (.imm 0x12), []) := by
  and_intros <;> rfl

/-- Shifts, rotates, increments and decrements (R87). -/
theorem test_decode_shifts_and_increments :
    decode [0b00001010] = .ok (.aslAcc, []) ∧
    decode [0b00000110, 0x12] = .ok (.asl (.zp 0x12), []) ∧
    decode [0b01001010] = .ok (.lsrAcc, []) ∧
    decode [0b01011110, 0x34, 0x12] = .ok (.lsr (.absx 0x1234), []) ∧
    decode [0b00101010] = .ok (.rolAcc, []) ∧
    decode [0b00110110, 0x12] = .ok (.rol (.zpx 0x12), []) ∧
    decode [0b01101010] = .ok (.rorAcc, []) ∧
    decode [0b01101110, 0x34, 0x12] = .ok (.ror (.abs 0x1234), []) ∧
    decode [0b11101110, 0x34, 0x12] = .ok (.inc (.abs 0x1234), []) ∧
    decode [0b11010110, 0x12] = .ok (.dec (.zpx 0x12), []) ∧
    decode [0b11101000] = .ok (.inx, []) ∧
    decode [0b11001000] = .ok (.iny, []) ∧
    decode [0b11001010] = .ok (.dex, []) ∧
    decode [0b10001000] = .ok (.dey, []) := by
  and_intros <;> rfl

/-- Jumps, call, return and branches (R87). -/
theorem test_decode_control_flow :
    decode [0b01001100, 0x34, 0x12] = .ok (.jmp 0x1234, []) ∧
    decode [0b01101100, 0x34, 0x12] = .ok (.jmpInd 0x1234, []) ∧
    decode [0b00100000, 0x34, 0x12] = .ok (.jsr 0x1234, []) ∧
    decode [0b01100000] = .ok (.rts, []) ∧
    decode [0b10010000, 0x12] = .ok (.bcc 0x12, []) ∧
    decode [0b10110000, 0x12] = .ok (.bcs 0x12, []) ∧
    decode [0b11110000, 0x12] = .ok (.beq 0x12, []) ∧
    decode [0b11010000, 0x12] = .ok (.bne 0x12, []) ∧
    decode [0b00110000, 0x12] = .ok (.bmi 0x12, []) ∧
    decode [0b00010000, 0x12] = .ok (.bpl 0x12, []) ∧
    decode [0b01010000, 0x12] = .ok (.bvc 0x12, []) ∧
    decode [0b01110000, 0x12] = .ok (.bvs 0x12, []) := by
  and_intros <;> rfl

/-- Stack and flag instructions, NOP, BRK and RTI (R87). -/
theorem test_decode_stack_flags_system :
    decode [0b01001000] = .ok (.pha, []) ∧
    decode [0b00001000] = .ok (.php, []) ∧
    decode [0b01101000] = .ok (.pla, []) ∧
    decode [0b00101000] = .ok (.plp, []) ∧
    decode [0b00011000] = .ok (.clc, []) ∧
    decode [0b00111000] = .ok (.sec, []) ∧
    decode [0b01011000] = .ok (.cli, []) ∧
    decode [0b01111000] = .ok (.sei, []) ∧
    decode [0b10111000] = .ok (.clv, []) ∧
    decode [0b11011000] = .ok (.cld, []) ∧
    decode [0b11111000] = .ok (.sed, []) ∧
    decode [0b11101010] = .ok (.nop, []) ∧
    decode [0b00000000] = .ok (.brk, []) ∧
    decode [0b01000000] = .ok (.rti, []) := by
  and_intros <;> rfl

/-- Composites (R88). -/
theorem test_decode_composites :
    decode [0b10110111, 0x12] = .ok (.lax (.zpy 0x12), []) ∧
    decode [0b10000011, 0x12] = .ok (.sax (.indx 0x12), []) ∧
    decode [0b11011011, 0x34, 0x12] = .ok (.dcp (.absy 0x1234), []) ∧
    decode [0b11110011, 0x12] = .ok (.isb (.indy 0x12), []) ∧
    decode [0b00001111, 0x34, 0x12] = .ok (.slo (.abs 0x1234), []) ∧
    decode [0b00100011, 0x12] = .ok (.rla (.indx 0x12), []) ∧
    decode [0b01010111, 0x12] = .ok (.sre (.zpx 0x12), []) ∧
    decode [0b01111111, 0x34, 0x12] = .ok (.rra (.absx 0x1234), []) := by
  and_intros <;> rfl

/-- Undefined, missing and truncated bytes are refused by name (R82, R85, R90). -/
theorem test_decode_refusals :
    decode [0x02, 0x00, 0x00] = .error (.undefinedOpcode 0x02) ∧ decode [] = .error .noByte ∧
      decode [0x4C, 0x34] = .error (.truncated 0x4C) := ⟨rfl, rfl, rfl⟩

/-- Bits 7..0 are the first byte, 15..8 the second, 23..16 the third; bits from nbits on are 0. -/
theorem test_decode_table_word :
    decodeTableWord 8 0xEA = some .nop ∧ decodeTableWord 16 0x34A9 = some (.lda (.imm 0x34)) ∧
      decodeTableWord 24 0x1234AD = some (.lda (.abs 0x1234)) ∧ decodeTableWord 8 0x12344C = some (.jmp 0x0000) ∧
      decodeTableWord 8 0x02 = none := by
  and_intros <;> rfl

/-! ### One step, on the vectors of 95_test_vectors.md part 2 -/

/-- Flat RAM of zeros but for the listed bytes. -/
def ram (cells : List (Nat × Byte)) : Memory := cells.foldl (fun m c => m.write c.1 c.2) []

/-- The default start of 95_test_vectors.md with the code placed at `pc`. -/
def start (pc : Word) (code : List Byte) (cells : List (Nat × Byte)) : State :=
  State.placeBytes { State.reset with pc := pc, mem := Platform.flat (ram cells), bus := [] } pc code

/-- The state after one call of `step()`. -/
def after (s : State) : State :=
  match step s with
  | .next t => t
  | .fault r => nomatch r
  | .refused _ => s

/-- Whether a call answers a next state. -/
def runs (s : State) : Bool :=
  match step s with
  | .next _ => true
  | .fault _ => false
  | .refused _ => false

theorem step_of_runs {s : State} (h : runs s = true) : step s = .next (after s) := by
  unfold runs at h
  unfold after
  cases hs : step s with
  | next t => rfl
  | fault r => simp [hs] at h
  | refused r => simp [hs] at h

/-- A, X, Y, SP and P. -/
def regs (s : State) : List Byte := [s.a, s.x, s.y, s.sp, s.p]

theorem test_lda_imm_zero :
      let t := after { start 0x8000 [0xA9, 0x00] [] with a := 0x55 }
      regs t = [0x00, 0x00, 0x00, 0xFD, 0x26] ∧ t.pc = 0x8002 ∧ t.pendingCycles = 1 ∧
        t.bus.drop 2 = [] := by decide +kernel

theorem test_ldx_zpy_wraps_in_zero_page :
      let t := after { start 0x8000 [0xB6, 0x10] [(0x0008, 0x7F)] with y := 0xF8 }
      regs t = [0x00, 0x7F, 0xF8, 0xFD, 0x24] ∧ t.pc = 0x8002 ∧
        t.bus.drop 2 = [.read 0x0008 0x7F] := by decide +kernel

theorem test_ldy_absx_no_page_cross_cycle :
      let t := after { start 0x8000 [0xBC, 0xF0, 0x12] [(0x1310, 0x81)] with x := 0x20 }
      regs t = [0x00, 0x20, 0x81, 0xFD, 0xA4] ∧ t.pc = 0x8003 ∧ t.pendingCycles = 3 ∧
        t.bus.drop 3 = [.read 0x1310 0x81] := by decide +kernel

theorem test_sta_indy_wraps_past_ffff :
      let t := after { start 0x8000 [0x91, 0x20] [(0x0020, 0x01), (0x0021, 0xFF)] with a := 0x5A, y := 0xFF }
      regs t = [0x5A, 0x00, 0xFF, 0xFD, 0x24] ∧ t.pc = 0x8002 ∧
        t.bus.drop 2 = [.read 0x0020 0x01, .read 0x0021 0xFF, .write 0x0000 0x5A] := by decide +kernel

theorem test_stx_zpy :
      let t := after { start 0x8000 [0x96, 0x10] [] with x := 0x12, y := 0x01 }
      regs t = [0x00, 0x12, 0x01, 0xFD, 0x24] ∧ t.pc = 0x8002 ∧
        t.bus.drop 2 = [.write 0x0011 0x12] := by decide +kernel

theorem test_sty_abs_no_flag :
      let t := after { start 0x8000 [0x8C, 0x34, 0x12] [] with y := 0x80 }
      regs t = [0x00, 0x00, 0x80, 0xFD, 0x24] ∧ t.pc = 0x8003 ∧
        t.bus.drop 3 = [.write 0x1234 0x80] := by decide +kernel

theorem test_lda_indx_pointer_wraps_in_zero_page :
      let t := after { start 0x8000 [0xA1, 0xF0] [(0x00FF, 0x00), (0x0000, 0x02), (0x0200, 0x9C)] with x := 0x0F }
      regs t = [0x9C, 0x0F, 0x00, 0xFD, 0xA4] ∧ t.pc = 0x8002 ∧
        t.bus.drop 2 = [.read 0x00FF 0x00, .read 0x0000 0x02, .read 0x0200 0x9C] := by decide +kernel

theorem test_tax :
      let t := after { start 0x8000 [0xAA] [] with a := 0x80 }
      regs t = [0x80, 0x80, 0x00, 0xFD, 0xA4] ∧ t.pc = 0x8001 ∧
        t.bus.drop 1 = [] := by decide +kernel

theorem test_tay :
      let t := after { start 0x8000 [0xA8] [] with a := 0x00, y := 0x05 }
      regs t = [0x00, 0x00, 0x00, 0xFD, 0x26] ∧ t.pc = 0x8001 := by decide +kernel

theorem test_txa :
      let t := after { start 0x8000 [0x8A] [] with x := 0x7F, a := 0x80, flags := Flags.unpack 0xA4 }
      regs t = [0x7F, 0x7F, 0x00, 0xFD, 0x24] ∧ t.pc = 0x8001 := by decide +kernel

theorem test_tya :
      let t := after { start 0x8000 [0x98] [] with y := 0xFF }
      regs t = [0xFF, 0x00, 0xFF, 0xFD, 0xA4] ∧ t.pc = 0x8001 := by decide +kernel

theorem test_tsx :
      let t := after { start 0x8000 [0xBA] [] with sp := 0x00, x := 0x01 }
      regs t = [0x00, 0x00, 0x00, 0x00, 0x26] ∧ t.pc = 0x8001 := by decide +kernel

theorem test_txs_no_flag :
      let t := after { start 0x8000 [0x9A] [] with x := 0x00, flags := Flags.unpack 0xA4 }
      regs t = [0x00, 0x00, 0x00, 0x00, 0xA4] ∧ t.pc = 0x8001 := by decide +kernel

theorem test_adc_binary_with_decimal_flag :
      let t := after { start 0x8000 [0x69, 0x01] [] with a := 0x09, flags := Flags.unpack 0x2C }
      regs t = [0x0A, 0x00, 0x00, 0xFD, 0x2C] ∧ t.pc = 0x8002 := by decide +kernel

theorem test_adc_overflow_and_carry :
      let t := after { start 0x8000 [0x69, 0x80] [] with a := 0x80 }
      regs t = [0x00, 0x00, 0x00, 0xFD, 0x67] ∧ t.pc = 0x8002 := by decide +kernel

theorem test_sbc_overflow :
      let t := after { start 0x8000 [0xE9, 0xB0] [] with a := 0x50, flags := Flags.unpack 0x25 }
      regs t = [0xA0, 0x00, 0x00, 0xFD, 0xE4] ∧ t.pc = 0x8002 := by decide +kernel

theorem test_sbc_borrow_in :
      let t := after { start 0x8000 [0xE9, 0x40] [] with a := 0x40 }
      regs t = [0xFF, 0x00, 0x00, 0xFD, 0xA4] ∧ t.pc = 0x8002 := by decide +kernel

theorem test_and_zero :
      let t := after { start 0x8000 [0x29, 0x0F] [] with a := 0xF0 }
      regs t = [0x00, 0x00, 0x00, 0xFD, 0x26] ∧ t.pc = 0x8002 := by decide +kernel

theorem test_ora_negative :
      let t := after { start 0x8000 [0x09, 0x80] [] with a := 0x0F }
      regs t = [0x8F, 0x00, 0x00, 0xFD, 0xA4] ∧ t.pc = 0x8002 := by decide +kernel

theorem test_eor :
      let t := after { start 0x8000 [0x49, 0xFF] [] with a := 0xAA }
      regs t = [0x55, 0x00, 0x00, 0xFD, 0x24] ∧ t.pc = 0x8002 := by decide +kernel

theorem test_bit_sets_n_v_z :
      let t := after { start 0x8000 [0x24, 0x10] [(0x0010, 0xC0)] with a := 0x01 }
      regs t = [0x01, 0x00, 0x00, 0xFD, 0xE6] ∧ t.pc = 0x8002 ∧
        t.bus.drop 2 = [.read 0x0010 0xC0] := by decide +kernel

theorem test_bit_clears_n_v :
      let t := after { start 0x8000 [0x24, 0x10] [(0x0010, 0x3F)] with a := 0xFF, flags := Flags.unpack 0xE4 }
      regs t = [0xFF, 0x00, 0x00, 0xFD, 0x24] ∧ t.pc = 0x8002 := by decide +kernel

theorem test_cmp_keeps_v :
      let t := after { start 0x8000 [0xC9, 0x80] [] with a := 0x00, flags := Flags.unpack 0x64 }
      regs t = [0x00, 0x00, 0x00, 0xFD, 0xE4] ∧ t.pc = 0x8002 := by decide +kernel

theorem test_cpx_less :
      let t := after { start 0x8000 [0xE0, 0x05] [] with x := 0x04 }
      regs t = [0x00, 0x04, 0x00, 0xFD, 0xA4] ∧ t.pc = 0x8002 := by decide +kernel

theorem test_cpy_equal :
      let t := after { start 0x8000 [0xC0, 0x10] [] with y := 0x10 }
      regs t = [0x00, 0x00, 0x10, 0xFD, 0x27] ∧ t.pc = 0x8002 := by decide +kernel

theorem test_asl_acc :
      let t := after { start 0x8000 [0x0A] [] with a := 0x80 }
      regs t = [0x00, 0x00, 0x00, 0xFD, 0x27] ∧ t.pc = 0x8001 ∧
        t.bus.drop 1 = [] := by decide +kernel

theorem test_asl_zp :
      let t := after (start 0x8000 [0x06, 0x10] [(0x0010, 0xC0)])
      regs t = [0x00, 0x00, 0x00, 0xFD, 0xA5] ∧ t.pc = 0x8002 ∧ t.pendingCycles = 4 ∧
        t.bus.drop 2 = [.read 0x0010 0xC0, .write 0x0010 0x80] := by decide +kernel

theorem test_lsr_acc_is_logical :
      let t := after { start 0x8000 [0x4A] [] with a := 0x80 }
      regs t = [0x40, 0x00, 0x00, 0xFD, 0x24] ∧ t.pc = 0x8001 := by decide +kernel

theorem test_lsr_zpx :
      let t := after { start 0x8000 [0x56, 0x10] [(0x0011, 0x03)] with x := 0x01 }
      regs t = [0x00, 0x01, 0x00, 0xFD, 0x25] ∧ t.pc = 0x8002 ∧ t.pendingCycles = 5 ∧
        t.bus.drop 2 = [.read 0x0011 0x03, .write 0x0011 0x01] := by decide +kernel

theorem test_rol_acc :
      let t := after { start 0x8000 [0x2A] [] with a := 0x40, flags := Flags.unpack 0x25 }
      regs t = [0x81, 0x00, 0x00, 0xFD, 0xA4] ∧ t.pc = 0x8001 := by decide +kernel

theorem test_rol_abs :
      let t := after { start 0x8000 [0x2E, 0x34, 0x12] [(0x1234, 0x7F)] with flags := Flags.unpack 0x25 }
      regs t = [0x00, 0x00, 0x00, 0xFD, 0xA4] ∧ t.pc = 0x8003 ∧ t.pendingCycles = 5 ∧
        t.bus.drop 3 = [.read 0x1234 0x7F, .write 0x1234 0xFF] := by decide +kernel

theorem test_ror_acc :
      let t := after { start 0x8000 [0x6A] [] with a := 0x02, flags := Flags.unpack 0x25 }
      regs t = [0x81, 0x00, 0x00, 0xFD, 0xA4] ∧ t.pc = 0x8001 := by decide +kernel

theorem test_ror_absx :
      let t := after { start 0x8000 [0x7E, 0xFF, 0x12] [(0x1300, 0x01)] with x := 0x01, flags := Flags.unpack 0x25 }
      regs t = [0x00, 0x01, 0x00, 0xFD, 0xA5] ∧ t.pc = 0x8003 ∧ t.pendingCycles = 6 ∧
        t.bus.drop 3 = [.read 0x1300 0x01, .write 0x1300 0x80] := by decide +kernel

theorem test_inc_wraps_keeps_c :
      let t := after { start 0x8000 [0xE6, 0x10] [(0x0010, 0xFF)] with flags := Flags.unpack 0x25 }
      regs t = [0x00, 0x00, 0x00, 0xFD, 0x27] ∧ t.pc = 0x8002 ∧
        t.bus.drop 2 = [.read 0x0010 0xFF, .write 0x0010 0x00] := by decide +kernel

theorem test_dec_wraps :
      let t := after (start 0x8000 [0xC6, 0x10] [])
      regs t = [0x00, 0x00, 0x00, 0xFD, 0xA4] ∧ t.pc = 0x8002 ∧
        t.bus.drop 2 = [.read 0x0010 0x00, .write 0x0010 0xFF] := by decide +kernel

theorem test_inx :
      let t := after { start 0x8000 [0xE8] [] with x := 0xFF }
      regs t = [0x00, 0x00, 0x00, 0xFD, 0x26] ∧ t.pc = 0x8001 := by decide +kernel

theorem test_iny :
      let t := after { start 0x8000 [0xC8] [] with y := 0x7F }
      regs t = [0x00, 0x00, 0x80, 0xFD, 0xA4] ∧ t.pc = 0x8001 := by decide +kernel

theorem test_dex :
      let t := after (start 0x8000 [0xCA] [])
      regs t = [0x00, 0xFF, 0x00, 0xFD, 0xA4] ∧ t.pc = 0x8001 := by decide +kernel

theorem test_dey :
      let t := after { start 0x8000 [0x88] [] with y := 0x01 }
      regs t = [0x00, 0x00, 0x00, 0xFD, 0x26] ∧ t.pc = 0x8001 := by decide +kernel

theorem test_jmp :
      let t := after (start 0x8000 [0x4C, 0xF5, 0xC5] [])
      regs t = [0x00, 0x00, 0x00, 0xFD, 0x24] ∧ t.pc = 0xC5F5 ∧ t.pendingCycles = 2 ∧
        t.bus.drop 3 = [] := by decide +kernel

theorem test_jmp_ind :
      let t := after (start 0x8000 [0x6C, 0x80, 0x10] [(0x1080, 0x34), (0x1081, 0x12)])
      regs t = [0x00, 0x00, 0x00, 0xFD, 0x24] ∧ t.pc = 0x1234 ∧ t.pendingCycles = 4 ∧
        t.bus.drop 3 = [.read 0x1080 0x34, .read 0x1081 0x12] := by decide +kernel

theorem test_jmp_ind_page_bug :
      let t := after (start 0x8000 [0x6C, 0xFF, 0x10] [(0x10FF, 0x34), (0x1000, 0x12), (0x1100, 0x56)])
      regs t = [0x00, 0x00, 0x00, 0xFD, 0x24] ∧ t.pc = 0x1234 ∧
        t.bus.drop 3 = [.read 0x10FF 0x34, .read 0x1000 0x12] := by decide +kernel

theorem test_jsr_stack_wraps :
      let t := after { start 0x8000 [0x20, 0x34, 0x12] [] with sp := 0x00 }
      regs t = [0x00, 0x00, 0x00, 0xFE, 0x24] ∧ t.pc = 0x1234 ∧ t.pendingCycles = 5 ∧
        t.bus.drop 3 = [.write 0x0100 0x80, .write 0x01FF 0x02] := by decide +kernel

theorem test_jsr_at_the_top :
      let t := after { start 0xFFFE [0x20, 0x34, 0x12] [] with sp := 0xFF }
      regs t = [0x00, 0x00, 0x00, 0xFD, 0x24] ∧ t.pc = 0x1234 ∧
        t.bus.drop 3 = [.write 0x01FF 0x00, .write 0x01FE 0x00] := by decide +kernel

theorem test_rts_wraps :
      let t := after (start 0x8000 [0x60] [(0x01FE, 0xFF), (0x01FF, 0xFF)])
      regs t = [0x00, 0x00, 0x00, 0xFF, 0x24] ∧ t.pc = 0x0000 ∧
        t.bus.drop 1 = [.read 0x01FE 0xFF, .read 0x01FF 0xFF] := by decide +kernel

theorem test_bcc_taken :
      let t := after (start 0x8000 [0x90, 0x05] [])
      regs t = [0x00, 0x00, 0x00, 0xFD, 0x24] ∧ t.pc = 0x8007 ∧ t.pendingCycles = 1 := by decide +kernel

theorem test_bcc_not_taken_reads_offset :
      let t := after { start 0x8000 [0x90, 0x05] [] with flags := Flags.unpack 0x25 }
      regs t = [0x00, 0x00, 0x00, 0xFD, 0x25] ∧ t.pc = 0x8002 := by decide +kernel

theorem test_bcs_taken :
      let t := after { start 0x8000 [0xB0, 0x01] [] with flags := Flags.unpack 0x25 }
      regs t = [0x00, 0x00, 0x00, 0xFD, 0x25] ∧ t.pc = 0x8003 := by decide +kernel

theorem test_bne_to_itself :
      let t := after (start 0x8000 [0xD0, 0xFE] [])
      regs t = [0x00, 0x00, 0x00, 0xFD, 0x24] ∧ t.pc = 0x8000 := by decide +kernel

theorem test_beq_wraps :
      let t := after { start 0xFFF0 [0xF0, 0x20] [] with flags := Flags.unpack 0x26 }
      regs t = [0x00, 0x00, 0x00, 0xFD, 0x26] ∧ t.pc = 0x0012 := by decide +kernel

theorem test_bmi_farthest_back :
      let t := after { start 0x8000 [0x30, 0x80] [] with flags := Flags.unpack 0xA4 }
      regs t = [0x00, 0x00, 0x00, 0xFD, 0xA4] ∧ t.pc = 0x7F82 := by decide +kernel

theorem test_bpl_zero :
      let t := after (start 0x8000 [0x10, 0x00] [])
      regs t = [0x00, 0x00, 0x00, 0xFD, 0x24] ∧ t.pc = 0x8002 := by decide +kernel

theorem test_bvs_not_taken :
      let t := after (start 0x8000 [0x70, 0x01] [])
      regs t = [0x00, 0x00, 0x00, 0xFD, 0x24] ∧ t.pc = 0x8002 := by decide +kernel

theorem test_bvc_taken :
      let t := after (start 0x8000 [0x50, 0x01] [])
      regs t = [0x00, 0x00, 0x00, 0xFD, 0x24] ∧ t.pc = 0x8003 := by decide +kernel

theorem test_pha_stack_wraps :
      let t := after { start 0x8000 [0x48] [] with a := 0xAB, sp := 0x00 }
      regs t = [0xAB, 0x00, 0x00, 0xFF, 0x24] ∧ t.pc = 0x8001 ∧ t.pendingCycles = 2 ∧
        t.bus.drop 1 = [.write 0x0100 0xAB] := by decide +kernel

theorem test_pla_stack_wraps :
      let t := after { start 0x8000 [0x68] [] with a := 0x01, sp := 0xFF }
      regs t = [0x00, 0x00, 0x00, 0x00, 0x26] ∧ t.pc = 0x8001 ∧ t.pendingCycles = 3 ∧
        t.bus.drop 1 = [.read 0x0100 0x00] := by decide +kernel

theorem test_php_sets_bits_4_and_5 :
      let t := after { start 0x8000 [0x08] [] with flags := Flags.unpack 0xA5 }
      regs t = [0x00, 0x00, 0x00, 0xFC, 0xA5] ∧ t.pc = 0x8001 ∧
        t.bus.drop 1 = [.write 0x01FD 0xB5] := by decide +kernel

theorem test_php_with_break_stored :
      let t := after { start 0x8000 [0x08] [] with flags := Flags.unpack 0x34 }
      regs t = [0x00, 0x00, 0x00, 0xFC, 0x34] ∧ t.pc = 0x8001 ∧
        t.bus.drop 1 = [.write 0x01FD 0x34] := by decide +kernel

theorem test_plp_keeps_break :
      let t := after { start 0x8000 [0x28] [(0x01FD, 0xFF)] with sp := 0xFC }
      regs t = [0x00, 0x00, 0x00, 0xFD, 0xEF] ∧ t.pc = 0x8001 := by decide +kernel

theorem test_plp_zero :
      let t := after { start 0x8000 [0x28] [] with sp := 0xFC, flags := Flags.unpack 0xA5 }
      regs t = [0x00, 0x00, 0x00, 0xFD, 0x20] ∧ t.pc = 0x8001 := by decide +kernel

theorem test_clc :
      let t := after { start 0x8000 [0x18] [] with flags := Flags.unpack 0xEF }
      regs t = [0x00, 0x00, 0x00, 0xFD, 0xEE] ∧ t.pc = 0x8001 := by decide +kernel

theorem test_sec :
      let t := after { start 0x8000 [0x38] [] with flags := Flags.unpack 0x20 }
      regs t = [0x00, 0x00, 0x00, 0xFD, 0x21] ∧ t.pc = 0x8001 := by decide +kernel

theorem test_cli :
      let t := after { start 0x8000 [0x58] [] with flags := Flags.unpack 0xEF }
      regs t = [0x00, 0x00, 0x00, 0xFD, 0xEB] ∧ t.pc = 0x8001 := by decide +kernel

theorem test_sei :
      let t := after { start 0x8000 [0x78] [] with flags := Flags.unpack 0x20 }
      regs t = [0x00, 0x00, 0x00, 0xFD, 0x24] ∧ t.pc = 0x8001 := by decide +kernel

theorem test_clv :
      let t := after { start 0x8000 [0xB8] [] with flags := Flags.unpack 0xEF }
      regs t = [0x00, 0x00, 0x00, 0xFD, 0xAF] ∧ t.pc = 0x8001 := by decide +kernel

theorem test_cld :
      let t := after { start 0x8000 [0xD8] [] with flags := Flags.unpack 0xEF }
      regs t = [0x00, 0x00, 0x00, 0xFD, 0xE7] ∧ t.pc = 0x8001 := by decide +kernel

theorem test_sed :
      let t := after { start 0x8000 [0xF8] [] with flags := Flags.unpack 0x20 }
      regs t = [0x00, 0x00, 0x00, 0xFD, 0x28] ∧ t.pc = 0x8001 := by decide +kernel

theorem test_nop :
      let t := after (start 0x8000 [0xEA] [])
      regs t = [0x00, 0x00, 0x00, 0xFD, 0x24] ∧ t.pc = 0x8001 ∧ t.pendingCycles = 1 ∧
        t.bus.drop 1 = [] := by decide +kernel

theorem test_brk :
      let t := after { start 0x8006 [0x00] [(0xFFFF, 0x90)] with sp := 0xFF, flags := Flags.unpack 0x20 }
      regs t = [0x00, 0x00, 0x00, 0xFC, 0x24] ∧ t.pc = 0x9000 ∧ t.pendingCycles = 6 ∧
        t.bus.drop 1 = [.write 0x01FF 0x80, .write 0x01FE 0x08, .write 0x01FD 0x30, .read 0xFFFE 0x00, .read 0xFFFF 0x90] := by decide +kernel

theorem test_rti :
      let t := after { start 0x8000 [0x40] [(0x01FD, 0x30), (0x01FE, 0x08), (0x01FF, 0x80)] with sp := 0xFC }
      regs t = [0x00, 0x00, 0x00, 0xFF, 0x20] ∧ t.pc = 0x8008 ∧ t.pendingCycles = 5 ∧
        t.bus.drop 1 = [.read 0x01FD 0x30, .read 0x01FE 0x08, .read 0x01FF 0x80] := by decide +kernel

theorem test_rti_keeps_break_adds_nothing :
      let t := after { start 0x8000 [0x40] [(0x01FD, 0xFF), (0x01FE, 0x34), (0x01FF, 0x12)] with sp := 0xFC }
      regs t = [0x00, 0x00, 0x00, 0xFF, 0xEF] ∧ t.pc = 0x1234 := by decide +kernel

theorem test_lax_zpy :
      let t := after { start 0x8000 [0xB7, 0x10] [(0x0011, 0x80)] with y := 0x01 }
      regs t = [0x80, 0x80, 0x01, 0xFD, 0xA4] ∧ t.pc = 0x8002 ∧ t.pendingCycles = 3 ∧
        t.bus.drop 2 = [.read 0x0011 0x80] := by decide +kernel

theorem test_lax_indy :
      let t := after { start 0x8000 [0xB3, 0x20] [(0x0020, 0xFF), (0x0021, 0x12)] with y := 0x01, a := 0x05, x := 0x06 }
      regs t = [0x00, 0x00, 0x01, 0xFD, 0x26] ∧ t.pc = 0x8002 ∧ t.pendingCycles = 4 ∧
        t.bus.drop 2 = [.read 0x0020 0xFF, .read 0x0021 0x12, .read 0x1300 0x00] := by decide +kernel

theorem test_sax_zpy :
      let t := after { start 0x8000 [0x97, 0x10] [] with a := 0xF0, x := 0x3C, y := 0x02 }
      regs t = [0xF0, 0x3C, 0x02, 0xFD, 0x24] ∧ t.pc = 0x8002 ∧
        t.bus.drop 2 = [.write 0x0012 0x30] := by decide +kernel

theorem test_dcp_documents_case :
      let t := after { start 0x8000 [0xC7, 0x10] [(0x0010, 0x05)] with a := 0x05 }
      regs t = [0x05, 0x00, 0x00, 0xFD, 0x25] ∧ t.pc = 0x8002 ∧
        t.bus.drop 2 = [.read 0x0010 0x05, .write 0x0010 0x04] := by decide +kernel

theorem test_dcp_less :
      let t := after { start 0x8000 [0xC7, 0x10] [(0x0010, 0x20)] with a := 0x10 }
      regs t = [0x10, 0x00, 0x00, 0xFD, 0xA4] ∧ t.pc = 0x8002 ∧
        t.bus.drop 2 = [.read 0x0010 0x20, .write 0x0010 0x1F] := by decide +kernel

theorem test_isb :
      let t := after { start 0x8000 [0xE7, 0x10] [(0x0010, 0x0F)] with a := 0x20, flags := Flags.unpack 0x25 }
      regs t = [0x10, 0x00, 0x00, 0xFD, 0x25] ∧ t.pc = 0x8002 ∧
        t.bus.drop 2 = [.read 0x0010 0x0F, .write 0x0010 0x10] := by decide +kernel

theorem test_isb_overflow :
      let t := after { start 0x8000 [0xE7, 0x10] [] with a := 0x80 }
      regs t = [0x7E, 0x00, 0x00, 0xFD, 0x65] ∧ t.pc = 0x8002 ∧
        t.bus.drop 2 = [.read 0x0010 0x00, .write 0x0010 0x01] := by decide +kernel

theorem test_slo :
      let t := after { start 0x8000 [0x07, 0x10] [(0x0010, 0x81)] with a := 0x01 }
      regs t = [0x03, 0x00, 0x00, 0xFD, 0x25] ∧ t.pc = 0x8002 ∧
        t.bus.drop 2 = [.read 0x0010 0x81, .write 0x0010 0x02] := by decide +kernel

theorem test_rla :
      let t := after { start 0x8000 [0x27, 0x10] [(0x0010, 0x04)] with a := 0x81 }
      regs t = [0x00, 0x00, 0x00, 0xFD, 0x26] ∧ t.pc = 0x8002 ∧
        t.bus.drop 2 = [.read 0x0010 0x04, .write 0x0010 0x08] := by decide +kernel

theorem test_rla_indx :
      let t := after { start 0x8000 [0x23, 0x20] [(0x0024, 0x00), (0x0025, 0x03), (0x0300, 0x80)] with a := 0xFF, x := 0x04, flags := Flags.unpack 0x25 }
      regs t = [0x01, 0x04, 0x00, 0xFD, 0x25] ∧ t.pc = 0x8002 ∧ t.pendingCycles = 7 ∧
        t.bus.drop 2 = [.read 0x0024 0x00, .read 0x0025 0x03, .read 0x0300 0x80, .write 0x0300 0x01] := by decide +kernel

theorem test_sre :
      let t := after { start 0x8000 [0x47, 0x10] [(0x0010, 0x03)] with a := 0xFF }
      regs t = [0xFE, 0x00, 0x00, 0xFD, 0xA5] ∧ t.pc = 0x8002 ∧
        t.bus.drop 2 = [.read 0x0010 0x03, .write 0x0010 0x01] := by decide +kernel

theorem test_rra_carry_between :
      let t := after { start 0x8000 [0x67, 0x10] [(0x0010, 0x03)] with a := 0x10 }
      regs t = [0x12, 0x00, 0x00, 0xFD, 0x24] ∧ t.pc = 0x8002 ∧
        t.bus.drop 2 = [.read 0x0010 0x03, .write 0x0010 0x01] := by decide +kernel

theorem test_rra_no_carry :
      let t := after { start 0x8000 [0x67, 0x10] [(0x0010, 0x02)] with a := 0x7F, flags := Flags.unpack 0x25 }
      regs t = [0x00, 0x00, 0x00, 0xFD, 0x27] ∧ t.pc = 0x8002 ∧
        t.bus.drop 2 = [.read 0x0010 0x02, .write 0x0010 0x81] := by decide +kernel

/-! ### The engine (95_test_vectors.md part 2 section 10, part 3 program P5) -/

/-- A NOP at 0x8000, ready to be fetched. -/
def atNop : State := start 0x8000 [0xEA] []

/-- The same with SP = 0: the stack wraps. -/
def lowStack : State := { atNop with sp := 0 }

/-- An undefined opcode at 0x800E. -/
def atUndefined : State := start 0x800E [0x02] []

/-- The same core with interrupt inputs, SP = FF, P = 20, PC = 8010 and the vectors of section 10. -/
def withInputs (latch prev : Bool) (line : Lines) (p : Byte) : State :=
  { start 0x8010 [0xEA] [(0xFFFB, 0xA0), (0xFFFF, 0x90)] with
    sp := 0xFF, flags := Flags.unpack p, nmiLatch := latch, nmiPrev := prev, inputs := [line]
    cfg := { Config.defaults with hasInterruptInputs := true } }

/-- IRQ asserted, NMI not. -/
def irqLine : Lines := { irq := true, nmi := false }

/-- NMI asserted, IRQ not. -/
def nmiLine : Lines := { irq := false, nmi := true }

/-- Neither asserted. -/
def noLine : Lines := { irq := false, nmi := false }

/-- Halted with no cycles pending, at 0xC66E. -/
def halted : State := { start 0xC66E [0xEA] [] with halted := true }

theorem test_reset_vector :
    let t := ({ start 0x1234 [] [(0xFFFD, 0x80)] with a := 1, x := 2, y := 3, halted := true } : State).resetCore
    regs t = [1, 2, 3, 0xFD, 0x24] ∧ t.pc = 0x8000 ∧ t.engine = .idleFetch ∧
      t.bus = [.read 0xFFFC 0x00, .read 0xFFFD 0x80] := by decide +kernel

theorem test_draining :
    let t := after { atNop with pendingCycles := 3 }
    t.pendingCycles = 2 ∧ t.result = some .noOpThisTick ∧ t.bus = [] ∧ t.pc = 0x8000 := by decide +kernel

theorem test_undefined_opcode_halts :
    let t := after atUndefined
    t.pc = 0x800F ∧ t.halted = true ∧ t.result = some (.halted (some .undecodableOpcode)) ∧
      t.bus = [.read 0x800E 0x02] ∧ t.mem = atUndefined.mem := by decide +kernel

theorem test_halted_stays :
    let t := after halted
    t.halted = true ∧ t.pc = 0xC66E ∧ t.result = some (.halted none) ∧ t.bus = [] := by decide +kernel

theorem test_halt_address :
    let t := after { start 0xC66E [0xEA] [] with cfg := { Config.defaults with haltAddr := some 0xC66E } }
    t.halted = true ∧ t.pc = 0xC66E ∧ t.bus = [] := by decide +kernel

theorem test_ran_two_cycles :
    let t := after atNop
    t.result = some (.ran 2) ∧ t.pendingCycles = 1 ∧ t.bus = [.read 0x8000 0xEA] := by decide +kernel

theorem test_irq_entry :
    let t := after (withInputs false false irqLine 0x20)
    regs t = [0, 0, 0, 0xFC, 0x24] ∧ t.pc = 0x9000 ∧ t.pendingCycles = 6 ∧ t.result = some (.ran 7) ∧
      t.bus = [.write 0x01FF 0x80, .write 0x01FE 0x10, .write 0x01FD 0x20, .read 0xFFFE 0x00, .read 0xFFFF 0x90] := by
  decide +kernel

theorem test_irq_masked : (after (withInputs false false irqLine 0x24)).pc = 0x8011 := by decide +kernel

theorem test_nmi_entry :
    let t := after (withInputs false false nmiLine 0x24)
    t.pc = 0xA000 ∧ t.nmiLatch = false ∧ t.nmiPrev = true ∧ t.mem.ram.read 0x01FD = 0x24 := by decide +kernel

theorem test_nmi_held_is_no_edge : (after (withInputs false true nmiLine 0x24)).pc = 0x8011 := by decide +kernel

/-- withFetchWord from reset: the very next step runs the instruction. -/
theorem test_with_fetch_word :
    (after (State.reset.withFetchWord 16 0x34A9)).a = 0x34 ∧ (after (State.reset.withFetchWord 8 0x4C)).pc = 0x0000 ∧
      (after (State.reset.withFetchWord 8 0xE8)).x = 0x01 := by decide +kernel

/-- `atNop` with a device at 0x2000 to 0x2007 (20_memory.md R52). -/
def withDevice : State := { atNop with mem := { atNop.mem with hooks := [{ lo := 0x2000, hi := 0x2007 }] } }

/-- A hooked address is the device's to answer, the addresses beside the range are RAM. -/
theorem test_hook_covers_its_range :
    withDevice.mem.hooked 0x1FFF = false ∧ withDevice.mem.hooked 0x2000 = true ∧ withDevice.mem.hooked 0x2007 = true ∧
      withDevice.mem.hooked 0x2008 = false := by decide +kernel

/-- LDA of a device register: A is what the device answers, the device moves on, RAM does not change. -/
theorem test_lda_from_device :
    ∃ t : State, exec (.lda (.abs 0x2002)) withDevice = .next t ∧ t.a = (Config.deviceRead 0 0x2002).1 ∧
      t.mem.device = (Config.deviceRead 0 0x2002).2 ∧ t.mem.ram = withDevice.mem.ram :=
  ⟨_, rfl, rfl, rfl, rfl⟩

/-- INC of a device register: one read, then one write of the new byte to the device the read left. -/
theorem test_inc_on_device :
    let answer := Config.deviceRead 0 0x2005
    ∃ t : State, exec (.inc (.abs 0x2005)) withDevice = .next t ∧
      t.mem.device = Config.deviceWrite answer.2 0x2005 (answer.1 + 1) ∧ t.mem.ram = withDevice.mem.ram :=
  ⟨_, rfl, rfl, rfl⟩

/-- withFetchWord puts PC and the two addresses after it in RAM, whatever is hooked there. -/
theorem test_with_fetch_word_at_a_device :
    (after (({ withDevice with pc := 0x2000 } : State).withFetchWord 16 0x34A9)).a = 0x34 := by decide +kernel

/-- Memory: writing the unlisted byte removes the entry. -/
theorem test_memory_canonical :
    (ram [(0x20, 1), (0x10, 2), (0x20, 0)]) = [(0x10, 2)] ∧ (ram [(0x20, 1), (0x10, 2)]).wf = true ∧
      Memory.wf [(0x20, 1), (0x10, 2)] = false ∧ Memory.wf [(0x10, 0)] = false ∧
      Memory.wf [(0x10000, 1)] = false := by decide +kernel

/-- The value type at 8 and 16 bits (95_test_vectors.md T1, part 2 section 1). -/
theorem test_fixed_width :
    (FixedWidth.construct 0x1AB : BitVec 8) = 0xAB ∧ (FixedWidth.construct (-1) : BitVec 8) = 0xFF ∧
      FixedWidth.value true (FixedWidth.construct 0x180 : BitVec 8) = -128 ∧
      FixedWidth.add (0xFFFF : Word) 0x0001 = 0x0000 ∧ FixedWidth.sub (0x00 : Byte) 0x01 = 0xFF ∧
      FixedWidth.neg (0x80 : Byte) = 0x80 ∧ FixedWidth.complement (0x0F : Byte) = 0xF0 ∧
      FixedWidth.and (0xF0 : Byte) 0x3C = 0x30 ∧ FixedWidth.or (0xF0 : Byte) 0x0F = 0xFF ∧
      FixedWidth.xor (0xAA : Byte) 0xFF = 0x55 ∧ FixedWidth.shiftLeft (0x81 : Byte) 1 = 0x02 ∧
      FixedWidth.shiftRight false (0x80 : Byte) 1 = 0x40 ∧ FixedWidth.shiftRight true (0x80 : Byte) 1 = 0xC0 := by
  decide +kernel

/-! ### Witnesses: the hypotheses of each obligation that has any are met together -/

theorem witness_DecodeReadsWhatEncodeWrites : (Instr.sta (.indy 0xFF)).wellFormed = true := rfl

theorem witness_EncodeWritesWhatDecodeReads :
    decode [0x91, 0xFF, 0xEA] = .ok (.sta (.indy 0xFF), [0xEA]) := rfl

theorem witness_UndefinedOpcodesAreTheListed53_undefined : (0xFC : Byte) ∈ undefinedOpcodes := by decide

theorem witness_UndefinedOpcodesAreTheListed53_defined : (0xFF : Byte) ∉ undefinedOpcodes := by decide

theorem witness_StepRunsTheDecodedInstruction :
    atNop.Ready ∧ decode atNop.bytesAtPC = .ok (.nop, [0x00, 0x00]) := ⟨by decide +kernel, rfl⟩

/-- An instruction that wraps around the top of memory. -/
theorem witness_StepRunsTheDecodedInstruction_at_the_top :
    (start 0xFFFF [0x4C, 0x34, 0x12] []).Ready ∧
      decode (start 0xFFFF [0x4C, 0x34, 0x12] []).bytesAtPC = .ok (.jmp 0x1234, []) :=
  ⟨by decide +kernel, rfl⟩

theorem witness_DrainingTickOnlyCountsDown :
    let s := { atNop with pendingCycles := 1 }
    s.started = true ∧ s.pendingCycles > 0 := by decide +kernel

theorem witness_HaltedStepChangesNothing :
    halted.started = true ∧ halted.pendingCycles = 0 ∧ halted.halted = true := by decide +kernel

theorem witness_HaltedNeverLeaves :
    halted.started = true ∧ halted.pendingCycles = 0 ∧ halted.halted = true ∧ (1 : Nat) ≠ 0 := by decide +kernel

theorem witness_HaltAddressHaltsBeforeTheFetch :
    let s := { start 0xFFFF [] [] with cfg := { Config.defaults with haltAddr := some 0xFFFF } }
    s.started = true ∧ s.pendingCycles = 0 ∧ s.halted = false ∧ s.cfg.haltAddr = some s.pc := by decide +kernel

theorem witness_UndefinedOpcodeHalts :
    let s := start 0xFFFF [0x02] []
    s.Ready ∧ (lookupOpcode (s.byteAt s.pc)).isNone = true := by decide +kernel

theorem witness_StepBeforeResetIsHalted : (State.powerOn Config.defaults (Platform.flat [])).started = false := rfl

/-- The longest instruction: eight cycles. -/
theorem witness_InstructionTakesItsCyclesInTicks :
    let s := start 0x8000 [0x23, 0x20] []
    s.Ready ∧ s.cfg.hasInterruptInputs = false ∧ (lookupOpcode (s.byteAt s.pc)).map Row.cycles = some 8 := by
  decide +kernel

theorem witness_LinesAreSampledOnEveryCall_with_inputs :
    let s := withInputs false false nmiLine 0x24
    s.started = true ∧ s.cfg.hasInterruptInputs = true := by decide +kernel

/-- No NMI entry: the latch is set while cycles drain. -/
theorem witness_LinesAreSampledOnEveryCall_draining :
    let s := { withInputs false false nmiLine 0x24 with pendingCycles := 1 }
    s.started = true ∧ s.cfg.hasInterruptInputs = true ∧ (after s).nmiLatch = true := by decide +kernel

theorem witness_LinesAreSampledOnEveryCall_without_inputs :
    atNop.started = true ∧ atNop.cfg.hasInterruptInputs = false := by decide +kernel

theorem witness_NmiEntryPushesAndVectors_latched :
    let s := withInputs true true noLine 0x24
    s.started = true ∧ s.pendingCycles = 0 ∧ s.halted = false ∧ s.cfg.haltAddr ≠ some s.pc ∧
      s.cfg.hasInterruptInputs = true ∧ (s.nmiLatch || (s.lines.nmi && !s.nmiPrev)) = true := by decide +kernel

theorem witness_NmiEntryPushesAndVectors_rising :
    let s := withInputs false false nmiLine 0x24
    s.started = true ∧ s.pendingCycles = 0 ∧ s.halted = false ∧ s.cfg.haltAddr ≠ some s.pc ∧
      s.cfg.hasInterruptInputs = true ∧ (s.nmiLatch || (s.lines.nmi && !s.nmiPrev)) = true := by decide +kernel

theorem witness_IrqEntryPushesAndVectors :
    let s := withInputs false false irqLine 0x20
    s.started = true ∧ s.pendingCycles = 0 ∧ s.halted = false ∧ s.cfg.haltAddr ≠ some s.pc ∧
      s.cfg.hasInterruptInputs = true ∧ (s.nmiLatch || (s.lines.nmi && !s.nmiPrev)) = false ∧
      s.lines.irq = true ∧ s.flags.i = false := by decide +kernel

theorem witness_MaskedOrAbsentIrqFetches_masked :
    let s := withInputs false false irqLine 0x24
    s.started = true ∧ s.pendingCycles = 0 ∧ s.halted = false ∧ s.cfg.haltAddr ≠ some s.pc ∧
      s.cfg.hasInterruptInputs = true ∧ (s.nmiLatch || (s.lines.nmi && !s.nmiPrev)) = false ∧
      s.flags.i = true := by decide +kernel

theorem witness_MaskedOrAbsentIrqFetches_absent :
    let s := withInputs false true nmiLine 0x20
    s.started = true ∧ s.pendingCycles = 0 ∧ s.halted = false ∧ s.cfg.haltAddr ≠ some s.pc ∧
      s.cfg.hasInterruptInputs = true ∧ (s.nmiLatch || (s.lines.nmi && !s.nmiPrev)) = false ∧
      s.lines.irq = false := by decide +kernel

/-- BRK makes six accesses, the most there are. -/
theorem witness_AtMostSixAccessesPerStep :
    ∃ t : State, step (start 0x8000 [0x00] []) = .next t ∧ t.bus.length = 6 :=
  ⟨_, step_of_runs (by decide +kernel), by decide +kernel⟩

theorem witness_StepKeepsTheInvariant :
    (start 0x8000 [0x91, 0x20] [(0x20, 1)]).Inv ∧
      ∃ t : State, step (start 0x8000 [0x91, 0x20] [(0x20, 1)]) = .next t :=
  ⟨by decide +kernel, _, step_of_runs (by decide +kernel)⟩

theorem witness_ResetKeepsTheInvariant : (start 0x8000 [0xEA] []).mem.ram.wf = true := by decide +kernel

theorem witness_StepKeepsBreakFlagAndParameters : ∃ t : State, step atNop = .next t :=
  ⟨_, step_of_runs (by decide +kernel)⟩

theorem witness_ResetSequence : (withInputs true true nmiLine 0x24).cfg.hasInterruptInputs = true := rfl

theorem witness_FixedWidthConstructionTruncates : (8 : Nat) = 8 ∨ (8 : Nat) = 16 := .inl rfl

theorem witness_FixedWidthConstructionTruncates_word : (16 : Nat) = 8 ∨ (16 : Nat) = 16 := .inr rfl

theorem witness_PackedStatusLayout : (0x20 : Byte).getLsbD 5 = true := rfl

theorem witness_LoadsWriteRegisterAndNZ : atNop.mem.hooks = [] := by decide +kernel

theorem witness_StoresWriteOneByteAndNoFlag_in_ram :
    withDevice.mem.ram.wf = true ∧ withDevice.mem.hooked (withDevice.effectiveAddress (.abs 0x2008)).value = false := by
  decide +kernel

theorem witness_StoresWriteOneByteAndNoFlag_on_device :
    withDevice.mem.ram.wf = true ∧ withDevice.mem.hooked (withDevice.effectiveAddress (.abs 0x2007)).value = true := by
  decide +kernel

theorem witness_OnlyTheListedInstructionsWriteARegister :
    (∃ t : State, exec (.sta (.zp 0x10)) atNop = .next t) ∧ Instr.writesA (.sta (.zp 0x10)) = false ∧
      Instr.writesX (.sta (.zp 0x10)) = false ∧ Instr.writesY (.sta (.zp 0x10)) = false ∧
      Instr.movesSP (.sta (.zp 0x10)) = false := ⟨exec_answers _ _, rfl, rfl, rfl, rfl⟩

theorem witness_OnlyTheListedInstructionsWriteAFlag :
    (∃ t : State, exec (.sta (.zp 0x10)) atNop = .next t) ∧ Instr.writesNZ (.sta (.zp 0x10)) = false ∧
      Instr.writesV (.sta (.zp 0x10)) = false ∧ Instr.writesD (.sta (.zp 0x10)) = false ∧
      Instr.writesI (.sta (.zp 0x10)) = false ∧ Instr.writesC (.sta (.zp 0x10)) = false :=
  ⟨exec_answers _ _, rfl, rfl, rfl, rfl, rfl⟩

/-- JSR with SP = 0 stores at 0x0100 and 0x01FF, and the byte at 0x0200 beside them is outside. -/
theorem witness_MemoryChangesOnlyAtStoredAddresses :
    lowStack.mem.ram.wf = true ∧ (∃ t : State, exec (.jsr 0x1234) lowStack = .next t) ∧
      (∀ w ∈ storedAddrs (.jsr 0x1234) lowStack, w.toNat = 0x0200 → lowStack.mem.hooked w = true) ∧
      lowStack.mem.hooked 0x0200 = false ∧ (0x0200 : Word) ∉ storedAddrs (.jsr 0x1234) lowStack := by
  have stored : storedAddrs (.jsr 0x1234) lowStack = [0x0100, 0x01FF] := by decide +kernel
  rw [stored]
  exact ⟨by decide +kernel, exec_answers _ _, by simp, rfl, by decide⟩

/-- A store to a device: no byte of RAM is outside the first clause, the one under the hook included. -/
theorem witness_MemoryChangesOnlyAtStoredAddresses_device :
    withDevice.mem.ram.wf = true ∧ (∃ t : State, exec (.sta (.abs 0x2007)) withDevice = .next t) ∧
      ∀ w ∈ storedAddrs (.sta (.abs 0x2007)) withDevice, w.toNat = 0x2007 → withDevice.mem.hooked w = true := by
  refine ⟨by decide +kernel, exec_answers _ _, fun w hw _ => ?_⟩
  obtain rfl : w = 0x2007 := by simpa [storedAddrs, State.resolve] using hw
  decide +kernel

/-- A form that stores nothing: every address is outside. -/
theorem witness_MemoryChangesOnlyAtStoredAddresses_none :
    atNop.mem.ram.wf = true ∧ (∃ t : State, exec (.cmp (.zp 0x10)) atNop = .next t) ∧
      atNop.mem.hooked 0x0010 = false ∧ 0x0010 ∉ storedAddrs (.cmp (.zp 0x10)) atNop :=
  ⟨by decide +kernel, exec_answers _ _, rfl, by decide +kernel⟩

theorem witness_InstructionsLeaveEngineAndAdvancePC :
    (∃ t : State, exec .nop atNop = .next t) ∧ Instr.transfersControl .nop = false := ⟨exec_answers _ _, rfl⟩

theorem witness_DecimalFlagHasNoEffect :
    Instr.writesD (.adc (.imm 0x01)) = false ∧ Instr.adc (.imm 0x01) ≠ .php ∧ Instr.adc (.imm 0x01) ≠ .brk ∧
      ∃ t : State, exec (.adc (.imm 0x01)) atNop = .next t := ⟨rfl, by decide, by decide, exec_answers _ _⟩

theorem witness_PullReturnsWhatWasPushed :
    let s := { atNop with sp := 0 }
    s.mem.ram.wf = true ∧ s.mem.hooked (0x0100 + zext16 s.sp) = false ∧ (0x0101 : Nat) ≠ 0x0100 + s.sp.toNat := by decide +kernel

theorem witness_ReturnComesBackAfterTheCall :
    lowStack.mem.ram.wf = true ∧ lowStack.mem.hooked (0x0100 + zext16 lowStack.sp) = false ∧
      lowStack.mem.hooked (0x0100 + zext16 (lowStack.sp - 1)) = false ∧
      ∃ t : State, exec (.jsr 0x1234) lowStack = .next t :=
  ⟨by decide +kernel, rfl, rfl, exec_answers _ _⟩

theorem witness_ReturnFromBreakRestoresState :
    lowStack.mem.ram.wf = true ∧ lowStack.mem.hooked (0x0100 + zext16 lowStack.sp) = false ∧
      lowStack.mem.hooked (0x0100 + zext16 (lowStack.sp - 1)) = false ∧
      lowStack.mem.hooked (0x0100 + zext16 (lowStack.sp - 2)) = false ∧
      ∃ t : State, exec .brk lowStack = .next t :=
  ⟨by decide +kernel, rfl, rfl, rfl, exec_answers _ _⟩

theorem witness_PullStatusAfterPushStatus :
    lowStack.mem.ram.wf = true ∧ lowStack.mem.hooked (0x0100 + zext16 lowStack.sp) = false ∧
      ∃ t : State, exec .php lowStack = .next t :=
  ⟨by decide +kernel, rfl, exec_answers _ _⟩

end Sys2Proof.Tests.Slice0
end

section
/-! PROOFS. The status byte as a codec (10_state.md R36 to R38), and the state after reset. -/

namespace Sys2Proof.Machine

/-- Bit 5 of a packed status is the constant 1 (10_state.md R31, R36). -/
theorem pack_getLsbD_five (f : Flags) : f.pack.getLsbD 5 = true := by
  simp only [Flags.pack, BitVec.getLsbD_append]
  rfl

/-- A byte is its seven stored flags and its bit 5, so two bytes that agree on these are equal. -/
theorem byte_eq_of_unpack_eq {p q : Byte} (h : Flags.unpack p = Flags.unpack q)
    (h5 : p.getLsbD 5 = q.getLsbD 5) : p = q := by
  simp only [Flags.unpack, Flags.mk.injEq] at h
  obtain ⟨h7, h6, h4, h3, h2, h1, h0⟩ := h
  refine BitVec.eq_of_getLsbD_eq fun k hk => ?_
  interval_cases k <;> assumption

/-- `Unpack` ignores bit 5 (R37). -/
theorem unpack_or_bit_five (b : Byte) : Flags.unpack (b ||| 0x20) = Flags.unpack b := by
  simp [Flags.unpack]

/-- Packing what was unpacked gives the byte with bit 5 set (R37). -/
theorem pack_unpack (b : Byte) : (Flags.unpack b).pack = b ||| 0x20 := by
  apply byte_eq_of_unpack_eq
  · rw [unpack_pack, unpack_or_bit_five]
  · simp [pack_getLsbD_five]

/-- The byte PLP and RTI make of a pulled one unpacks to the flags `UnpackPulled` gives (R38). -/
theorem unpack_pulled_byte (f : Flags) (b : Byte) :
    Flags.unpack ((b &&& 0xCF) ||| 0x20 ||| BitVec.ofNat 8 (f.b.toNat * 16)) = f.unpackPulled b := by
  cases hb : f.b <;> simp [Flags.unpack, Flags.unpackPulled, hb]

/-- The weights of the eight bits of a packed status (R36). -/
theorem pack_toNat (f : Flags) :
    f.pack.toNat = f.n.toNat * 128 + f.v.toNat * 64 + 32 + f.b.toNat * 16 + f.d.toNat * 8 + f.i.toNat * 4 +
      f.z.toNat * 2 + f.c.toNat := by
  obtain ⟨n, v, b, d, i, z, c⟩ := f
  cases n <;> cases v <;> cases b <;> cases d <;> cases i <;> cases z <;> cases c <;> rfl

/-- Settles O30: a byte with bit 5 set is the packed byte of the flags it unpacks to. -/
theorem packedStatusLayout : Obligations.PackedStatusLayout := by
  refine ⟨pack_toNat, fun b h5 => ⟨Flags.unpack b, ?_⟩, rfl⟩
  exact byte_eq_of_unpack_eq (unpack_pack _) ((pack_getLsbD_five _).trans h5.symm)

/-- Settles O31. -/
theorem statusCodecRoundTrips : Obligations.StatusCodecRoundTrips :=
  ⟨fun _ => ⟨rfl, rfl, rfl, rfl, rfl, rfl, rfl⟩, unpack_pack, pack_unpack⟩

/-- Settles O32: both sides unpack to the same flags and have bit 5 set. -/
theorem pulledStatusKeepsBreak : Obligations.PulledStatusKeepsBreak := by
  intro f b
  apply byte_eq_of_unpack_eq
  · rw [unpack_pack, unpack_pulled_byte]
  · rw [pack_getLsbD_five]
    simp

/-- Settles O19. -/
theorem resetStateMeetsTheInvariant : Obligations.ResetStateMeetsTheInvariant :=
  ⟨Memory.reset_mem_wf, Nat.zero_le _, fun _ => rfl⟩

/-- Settles O24: both reads of the vector answer the unlisted byte. -/
theorem resetStateIsPowerOnThenReset : Obligations.ResetStateIsPowerOnThenReset := by
  unfold Obligations.ResetStateIsPowerOnThenReset State.resetCore
  rw [State.read16_eq]
  rfl

end Sys2Proof.Machine
end

section
/-! PROOFS. What replaying accesses keeps, and the bus frame: what holds between two moments of a program's execution
because every access goes through the platform's two operations (20_memory.md R51, R52). -/

namespace Sys2Proof.Machine

namespace Platform

/-- Accesses leave the hook table alone (20_memory.md R52; assumption log 7). -/
theorem replay_hooks {accs : List Access} : ∀ {m m' : Platform}, m.replay accs = some m' → m'.hooks = m.hooks := by
  induction accs with
  | nil => rintro m _ ⟨⟩; rfl
  | cons acc accs ih =>
    intro m m' h
    cases acc with
    | read a v =>
      obtain ⟨-, h⟩ := Option.ite_none_right_eq_some.mp h
      exact (ih h).trans (read_hooks m a)
    | write a v => exact (ih h).trans (write_hooks m a v)

/-- Accesses keep the canonical form of the byte array. -/
theorem replay_wf {accs : List Access} :
    ∀ {m m' : Platform}, m.replay accs = some m' → m.ram.wf = true → m'.ram.wf = true := by
  induction accs with
  | nil => rintro m _ ⟨⟩ hm; exact hm
  | cons acc accs ih =>
    intro m m' h hm
    cases acc with
    | read a v =>
      obtain ⟨-, h⟩ := Option.ite_none_right_eq_some.mp h
      exact ih h (read_wf hm a)
    | write a v => exact ih h (write_wf hm a v)

@[simp] theorem replay_readAll (addrs : List Word) :
    ∀ m : Platform, m.replay (m.readAll addrs).accesses = some (m.readAll addrs).mem := by
  induction addrs with
  | nil => intro m; rfl
  | cons a addrs ih => intro m; simp [readAll, replay_append, ih]

end Platform

/-- What holds between two moments of a program's execution, whatever it did to the registers and flags: the fields of
the engine, the driver and the parameters are as before, and the platform has seen exactly the accesses added to the
log, in their order (20_memory.md R61, R62). -/
structure State.BusFrame (s t : State) : Prop where
  outside : s.SameOutsideProgram t
  traced : ∃ accs, t.bus = s.bus ++ accs ∧ s.mem.replay accs = some t.mem

namespace State.BusFrame

variable {s t u : State}

theorem hooks (h : s.BusFrame t) : t.mem.hooks = s.mem.hooks := by
  obtain ⟨accs, -, hm⟩ := h.traced
  exact Platform.replay_hooks hm

theorem mem_wf (h : s.BusFrame t) (hs : s.mem.ram.wf = true) : t.mem.ram.wf = true := by
  obtain ⟨accs, -, hm⟩ := h.traced
  exact Platform.replay_wf hm hs

protected theorem refl (s : State) : s.BusFrame s :=
  ⟨⟨rfl, rfl, rfl, rfl, rfl, rfl, rfl, rfl⟩, [], (List.append_nil _).symm, rfl⟩

protected theorem trans (h : s.BusFrame t) (h' : t.BusFrame u) : s.BusFrame u := by
  obtain ⟨⟨h1, h2, h3, h4, h5, h6, h7, h8⟩, xs, hxs, hm⟩ := h
  obtain ⟨⟨k1, k2, k3, k4, k5, k6, k7, k8⟩, ys, hys, km⟩ := h'
  refine ⟨⟨k1.trans h1, k2.trans h2, k3.trans h3, k4.trans h4, k5.trans h5, k6.trans h6, k7.trans h7, k8.trans h8⟩,
    xs ++ ys, by rw [hys, hxs, List.append_assoc], ?_⟩
  rw [Platform.replay_append, hm]
  exact km

/-! Registers, PC and flags are no part of the bus frame. -/

@[simp] theorem setA_iff {v : Byte} : s.BusFrame (t.setA v) ↔ s.BusFrame t :=
  ⟨fun h => ⟨h.outside, h.traced⟩, fun h => ⟨h.outside, h.traced⟩⟩

@[simp] theorem setX_iff {v : Byte} : s.BusFrame (t.setX v) ↔ s.BusFrame t :=
  ⟨fun h => ⟨h.outside, h.traced⟩, fun h => ⟨h.outside, h.traced⟩⟩

@[simp] theorem setY_iff {v : Byte} : s.BusFrame (t.setY v) ↔ s.BusFrame t :=
  ⟨fun h => ⟨h.outside, h.traced⟩, fun h => ⟨h.outside, h.traced⟩⟩

@[simp] theorem setSP_iff {v : Byte} : s.BusFrame (t.setSP v) ↔ s.BusFrame t :=
  ⟨fun h => ⟨h.outside, h.traced⟩, fun h => ⟨h.outside, h.traced⟩⟩

@[simp] theorem setPC_iff {v : Word} : s.BusFrame (t.setPC v) ↔ s.BusFrame t :=
  ⟨fun h => ⟨h.outside, h.traced⟩, fun h => ⟨h.outside, h.traced⟩⟩

@[simp] theorem setFlags_iff {f : Flags} : s.BusFrame (t.setFlags f) ↔ s.BusFrame t :=
  ⟨fun h => ⟨h.outside, h.traced⟩, fun h => ⟨h.outside, h.traced⟩⟩

/-! The operations of the bus -/

/-- Accesses whose list replays to the platform they leave. -/
theorem afterMoves {α : Type} {w : Moved α} (hw : s.mem.replay w.accesses = some w.mem) : s.BusFrame (s.afterMoves w) :=
  ⟨⟨rfl, rfl, rfl, rfl, rfl, rfl, rfl, rfl⟩, w.accesses, rfl, hw⟩

variable (s)

theorem read16Bug (a : Word) : s.BusFrame (s.read16Bug a).2 := by
  rw [read16Bug_eq]
  exact afterMoves (Platform.replay_readWord ..)

theorem push (v : Byte) : s.BusFrame (s.push v) :=
  ⟨⟨rfl, rfl, rfl, rfl, rfl, rfl, rfl, rfl⟩, [.write (stackAddr s.sp) v], rfl, rfl⟩

theorem pull : s.BusFrame s.pull.2 :=
  ⟨⟨rfl, rfl, rfl, rfl, rfl, rfl, rfl, rfl⟩, _, rfl, Platform.replay_readByte s.mem (stackAddr (s.sp + 1))⟩

theorem enterTrap (ra : Word) (status : Byte) (vector : Word) : s.BusFrame (s.enterTrap ra status vector) := by
  rw [enterTrap_eq]
  exact ⟨⟨rfl, rfl, rfl, rfl, rfl, rfl, rfl, rfl⟩, _, List.append_assoc .., Platform.replay_readWord ..⟩

theorem returnFromTrap : s.BusFrame s.returnFromTrap := by
  rw [returnFromTrap_eq]
  exact ⟨⟨rfl, rfl, rfl, rfl, rfl, rfl, rfl, rfl⟩, _, List.append_assoc .., by simp [Platform.replay_append]⟩

end State.BusFrame

end Sys2Proof.Machine
end

section
/-! PROOFS. The frame of every instruction: the registers and flags it is not listed as a writer of, and the bus frame. -/

namespace Sys2Proof.Machine

/-- A, X, Y and SP are as before unless `i` is a listed writer (10_state.md R21 to R24). -/
def KeepsRegisters (i : Instr) (s t : State) : Prop :=
  (i.writesA = false → t.a = s.a) ∧ (i.writesX = false → t.x = s.x) ∧ (i.writesY = false → t.y = s.y) ∧
    (i.movesSP = false → t.sp = s.sp)

/-- Each flag is as before unless `i` stands in its column of 10_state.md R44, and B always is. -/
def KeepsFlags (i : Instr) (s t : State) : Prop :=
  (i.writesNZ = false → t.flags.n = s.flags.n ∧ t.flags.z = s.flags.z) ∧
    (i.writesV = false → t.flags.v = s.flags.v) ∧ (i.writesD = false → t.flags.d = s.flags.d) ∧
    (i.writesI = false → t.flags.i = s.flags.i) ∧ (i.writesC = false → t.flags.c = s.flags.c) ∧
    t.flags.b = s.flags.b

/-- The frame of an instruction: what it must leave alone in the registers, in the flags and everywhere else. -/
structure ExecFrame (i : Instr) (s t : State) : Prop where
  registers : KeepsRegisters i s t
  flags : KeepsFlags i s t
  bus : s.BusFrame t

open State in
/-- The instructions grouped by the shared operation that makes their accesses: its law gives the bus frame and the
state after the accesses, on which the instruction then writes registers and flags. -/
theorem exec_frame {i : Instr} {s t : State} (h : exec i s = .next t) : ExecFrame i s t := by
  cases i
  case' lda op | ldx op | ldy op | lax op | adc op | sbc op | and op | ora op | eor op | bit op | cmp op | cpx op
    | cpy op =>
    have bus := BusFrame.afterMoves (replay_loaded s op)
    simp only [exec, execLda, execLdx, execLdy, execLax, execAdc, execSbc, execAnd, execOra, execEor, execBit, execCmp,
      execCpx, execCpy, loadOperand_eq, Host.Outcome.next.injEq] at h
  case' sta op | stx op | sty op | sax op =>
    have bus := fun v => BusFrame.afterMoves (replay_stored s op v)
    simp only [exec, execSta, execStx, execSty, execSax, storeOperand_eq, Host.Outcome.next.injEq] at h
  case' inc op | dec op | dcp op | isb op =>
    have bus := fun v => BusFrame.afterMoves (replay_modified s op v)
    simp only [exec, execInc, execDec, execDcp, execIsb, modifyOperand_eq, Host.Outcome.next.injEq] at h
  case' asl op | lsr op | rol op | ror op | slo op | rla op | sre op | rra op =>
    have bus := fun v => BusFrame.afterMoves (replay_modified s op v)
    simp only [exec, execAsl, execLsr, execRol, execRor, execSlo, execRla, execSre, execRra, shiftOperand_eq,
      Host.Outcome.next.injEq] at h
  case' bcc off | bcs off | beq off | bne off | bmi off | bpl off | bvc off | bvs off =>
    have bus := BusFrame.refl s
    simp only [exec, execBcc, execBcs, execBeq, execBne, execBmi, execBpl, execBvc, execBvs, branch_eq,
      Host.Outcome.next.injEq] at h
  case' tax | tay | txa | tya | tsx | txs | aslAcc | lsrAcc | rolAcc | rorAcc | inx | iny | dex | dey | jmp
    | clc | sec | cli | sei | clv | cld | sed | nop =>
    have bus := BusFrame.refl s
    have h := Host.Outcome.next.inj h
  case' jmpInd ptr =>
    have bus := BusFrame.read16Bug s ptr
    simp only [exec, execJmpInd, read16Bug_eq, Host.Outcome.next.injEq] at h bus
  case' pha | php =>
    have bus := BusFrame.push s
    have h := Host.Outcome.next.inj h
  case' jsr target =>
    have bus := fun v w => (BusFrame.push s v).trans (BusFrame.push _ w)
    have h := Host.Outcome.next.inj h
  case' pla | plp =>
    have bus := BusFrame.pull s
    simp only [exec, execPla, execPlp, pull_eq, Host.Outcome.next.injEq] at h bus
  case' rts =>
    have bus := (BusFrame.pull s).trans (BusFrame.pull _)
    simp only [exec, execRts, pull_eq, Host.Outcome.next.injEq] at h bus
  case' brk =>
    have bus := BusFrame.enterTrap s
    simp only [exec, execBrk, enterTrap_eq, Host.Outcome.next.injEq] at h bus
  case' rti =>
    have bus := BusFrame.returnFromTrap s
    simp only [exec, execRti, returnFromTrap_eq, Host.Outcome.next.injEq] at h bus
  all_goals
    subst h
    constructor
    · simp [KeepsRegisters, push_eq, shiftAcc_eq, Instr.writesA, Instr.writesX, Instr.writesY, Instr.movesSP]
    · simp [KeepsFlags, shiftAcc_eq, Flags.unpackPulled, Instr.writesNZ, Instr.writesV, Instr.writesD, Instr.writesI,
        Instr.writesC]
    · simp only [bus, setNZ_eq, advance_eq, applyArith_eq, applyCompare_eq, applyBit_eq, shiftAcc_eq,
        BusFrame.setA_iff, BusFrame.setX_iff, BusFrame.setY_iff, BusFrame.setSP_iff, BusFrame.setPC_iff,
        BusFrame.setFlags_iff]

/-- No instruction writes the stored B (10_state.md R30). -/
theorem exec_keeps_b {i : Instr} {s t : State} (h : exec i s = .next t) : t.flags.b = s.flags.b := by
  obtain ⟨-, -, -, -, -, hb⟩ := (exec_frame h).flags
  exact hb

/-- Settles O52. -/
theorem onlyTheListedInstructionsWriteARegister : Obligations.OnlyTheListedInstructionsWriteARegister :=
  fun _ _ _ h => (exec_frame h).registers

/-- Settles O53. -/
theorem onlyTheListedInstructionsWriteAFlag : Obligations.OnlyTheListedInstructionsWriteAFlag :=
  fun _ _ _ h => (exec_frame h).flags

end Sys2Proof.Machine
end

section
/-! PROOFS. What one call of `step()` can answer, and what every call keeps. -/

namespace Sys2Proof.Machine

/-- What a call that reaches the fetch answers: it halts at an undefined opcode, or it runs the instruction it fetched
and banks the cycles of its row. -/
theorem fetchAndExecute_cases {s t : State} (h : fetchAndExecute s = .next t) :
    t = (s.afterMoves (s.mem.readByte s.pc)).haltUndecodable ∨
    ∃ row ∈ opcodeTable, ∃ (i : Instr) (w : Moved (List Byte)) (u : State),
      s.mem.replay w.accesses = some w.mem ∧ exec i (s.afterMoves w) = .next u ∧ t = u.bankCycles row.cycles := by
  cases hr : lookupOpcode (s.byteAt s.pc) with
  | none =>
    rw [fetchAndExecute, fetch_of_none hr] at h
    exact .inl (Host.Outcome.next.inj h).symm
  | some row =>
    rw [fetchAndExecute, fetch_of_row hr] at h
    dsimp only at h
    split at h
    · next u hu =>
      exact .inr ⟨row, (lookupOpcode_some hr).1, _, _, u, Platform.replay_readAll _ _, hu,
        (Host.Outcome.next.inj h).symm⟩
    · cases h
    · cases h

/-- Before the first `reset()` a call only reports (42_execution_engine.md R175). -/
theorem step_of_not_started {s : State} (h : s.started = false) :
    step s = .next ({ s with bus := [] }.report (.halted (some .nullProgramCounter))) := by
  simp [step, h]

/-- What one call answers, in the order of 60_exceptions.md R311: before the first `reset()`, draining, in Halted, at
`HALT_ADDR`, at an interrupt, or from the fetch. -/
theorem step_next_cases {s t : State} (h : step s = .next t) :
    t = { s with bus := [] }.report (.halted (some .nullProgramCounter)) ∨
    (s.pendingCycles > 0 ∧ t = s.beginTick.drain) ∨
    t = s.beginTick.report (.halted none) ∨
    (s.pendingCycles = 0 ∧ t = s.beginTick.enterHalted .haltAddressReached) ∨
    (s.halted = false ∧ ∃ k, t = (s.beginTick.enterInterrupt k).bankCycles 7) ∨
    (s.pendingCycles = 0 ∧ s.halted = false ∧ fetchAndExecute s.beginTick = .next t) := by
  rcases Bool.eq_false_or_eq_true s.started with hs | hs
  · rcases step_cases hs with ⟨hp, e⟩ | ⟨-, -, e⟩ | ⟨hp, -, -, e⟩ | ⟨-, hh, -, k, -, e⟩ | ⟨⟨-, hp, hh, -, -⟩, e⟩ <;>
      rw [e] at h
    · exact .inr (.inl ⟨hp, (Host.Outcome.next.inj h).symm⟩)
    · exact .inr (.inr (.inl (Host.Outcome.next.inj h).symm))
    · exact .inr (.inr (.inr (.inl ⟨hp, (Host.Outcome.next.inj h).symm⟩)))
    · exact .inr (.inr (.inr (.inr (.inl ⟨hh, k, (Host.Outcome.next.inj h).symm⟩))))
    · exact .inr (.inr (.inr (.inr (.inr ⟨hp, hh, h⟩))))
  · rw [step_of_not_started hs] at h
    exact .inl (Host.Outcome.next.inj h).symm

/-- The fetch keeps the invariant: no row of the opcode table takes more than 8 cycles, and an instruction neither
halts nor leaves the canonical form. -/
theorem fetchAndExecute_inv {s t : State} (hwf : s.mem.ram.wf = true) (hp : s.pendingCycles = 0)
    (hh : s.halted = false) (h : fetchAndExecute s = .next t) : t.Inv := by
  rcases fetchAndExecute_cases h with rfl | ⟨row, hrow, i, w, u, hw, hu, rfl⟩
  · exact ⟨Platform.read_wf hwf _, hp.trans_le (Nat.zero_le 7), fun _ => hp⟩
  · have bus := (State.BusFrame.afterMoves hw).trans (exec_frame hu).bus
    obtain ⟨-, hhalted, -⟩ := bus.outside
    refine ⟨bus.mem_wf hwf, ?_, fun hu' => ?_⟩
    · have := opcodeTable_cycles row hrow
      rw [State.bankCycles_pendingCycles]
      omega
    · rw [State.bankCycles_halted, hhalted, hh] at hu'
      contradiction

/-- Settles O20, by the cases of a call. -/
theorem stepKeepsTheInvariant : Obligations.StepKeepsTheInvariant := by
  intro s t hs h
  have ⟨hwf, hle, hzero⟩ := hs
  rcases step_next_cases h with rfl | ⟨hp, rfl⟩ | rfl | ⟨hp, rfl⟩ | ⟨hh, k, rfl⟩ | ⟨hp, hh, hf⟩
  · exact hs
  · refine ⟨?_, ?_, ?_⟩
    · simpa [State.drain] using hwf
    · simp [State.drain]
      omega
    · simpa [State.drain] using fun hh => absurd (hzero hh) hp.ne'
  · simpa [State.Inv] using hs
  · simp [State.Inv, State.enterHalted, hwf, hp]
  · refine ⟨?_, ?_, ?_⟩
    · exact State.enterInterrupt_mem_wf _ (by simpa using hwf) k
    · simp
    · simp [hh]
  · exact fetchAndExecute_inv (by simpa using hwf) (by simpa using hp) (by simpa using hh) hf

/-- Settles O22, by the cases of a call. -/
theorem stepKeepsBreakFlagAndParameters : Obligations.StepKeepsBreakFlagAndParameters := by
  intro s t h
  rcases step_next_cases h with rfl | ⟨-, rfl⟩ | rfl | ⟨-, rfl⟩ | ⟨-, k, rfl⟩ | ⟨-, -, hf⟩
  · exact ⟨rfl, rfl, rfl, rfl⟩
  · simp [State.drain]
  · simp
  · simp [State.enterHalted]
  · simp [State.enterInterrupt_eq, State.enterTrap_eq]
  · rcases fetchAndExecute_cases hf with rfl | ⟨row, -, i, w, u, hw, hu, rfl⟩
    · simp [State.haltUndecodable, State.enterHalted]
    · have bus := (State.BusFrame.afterMoves hw).trans (exec_frame hu).bus
      obtain ⟨-, -, hstarted, -, -, hcfg, -⟩ := bus.outside
      exact ⟨by simpa using exec_keeps_b hu, by simpa using hcfg, by simpa using bus.hooks, by simpa using hstarted⟩

end Sys2Proof.Machine
end

section
/-! PROOFS. Decimal mode has no effect (10_state.md R33): every instruction that neither writes nor pushes D commutes
with a change of D. -/

namespace Sys2Proof.Machine

/-- The state with D replaced. -/
def State.withD (s : State) (d : Bool) : State := { s with flags := { s.flags with d := d } }

namespace State

variable (s : State) (d : Bool)

@[simp] theorem effectiveAddress_withD (op : Operand) : (s.withD d).effectiveAddress op = s.effectiveAddress op := by
  cases op <;> rfl

@[simp] theorem operandInMemory_withD (op : Operand) : (s.withD d).operandInMemory op = s.operandInMemory op := by
  simp only [operandInMemory, effectiveAddress_withD]

@[simp] theorem loaded_withD (op : Operand) : (s.withD d).loaded op = s.loaded op := by
  cases op with
  | imm b => rfl
  | _ => exact operandInMemory_withD s d _

@[simp] theorem stored_withD (op : Operand) (v : Byte) : (s.withD d).stored op v = s.stored op v := by
  simp only [stored, effectiveAddress_withD]

@[simp] theorem modified_withD (op : Operand) (v : Byte) : (s.withD d).modified op v = s.modified op v := by
  simp only [modified, effectiveAddress_withD, operandInMemory_withD]

end State

open State in
/-- The accesses of an operand do not depend on D, and no ALU function takes it. -/
theorem exec_withD {i : Instr} {s t : State} (d : Bool) (hw : i.writesD = false) (hphp : i ≠ .php) (hbrk : i ≠ .brk)
    (h : exec i s = .next t) : exec i (s.withD d) = .next (t.withD d) := by
  cases i
  case cld | sed | plp | rti => cases hw
  case php => contradiction
  case brk => contradiction
  case lda op | ldx op | ldy op | lax op | adc op | sbc op | and op | ora op | eor op | bit op | cmp op | cpx op
    | cpy op =>
    simp only [exec, execLda, execLdx, execLdy, execLax, execAdc, execSbc, execAnd, execOra, execEor, execBit, execCmp,
      execCpx, execCpy, loadOperand_eq, loaded_withD, Host.Outcome.next.injEq] at h ⊢
    subst h
    rfl
  case sta op | stx op | sty op | sax op =>
    simp only [exec, execSta, execStx, execSty, execSax, storeOperand_eq, stored_withD, Host.Outcome.next.injEq] at h ⊢
    subst h
    rfl
  case inc op | dec op | dcp op | isb op =>
    simp only [exec, execInc, execDec, execDcp, execIsb, modifyOperand_eq, operandInMemory_withD, modified_withD,
      Host.Outcome.next.injEq] at h ⊢
    subst h
    rfl
  case asl op | lsr op | rol op | ror op | slo op | rla op | sre op | rra op =>
    simp only [exec, execAsl, execLsr, execRol, execRor, execSlo, execRla, execSre, execRra, shiftOperand_eq,
      operandInMemory_withD, modified_withD, Host.Outcome.next.injEq] at h ⊢
    subst h
    rfl
  case bcc off | bcs off | beq off | bne off | bmi off | bpl off | bvc off | bvs off =>
    simp only [exec, execBcc, execBcs, execBeq, execBne, execBmi, execBpl, execBvc, execBvs, branch_eq,
      Host.Outcome.next.injEq] at h ⊢
    subst h
    rfl
  case tax | tay | txa | tya | tsx | txs | aslAcc | lsrAcc | rolAcc | rorAcc | inx | iny | dex | dey | jmp
    | jmpInd | jsr | rts | pha | pla | clc | sec | cli | sei | clv | nop =>
    cases h
    rfl

/-- Settles O56. -/
theorem decimalFlagHasNoEffect : Obligations.DecimalFlagHasNoEffect :=
  fun _ _ _ d hw hphp hbrk h => exec_withD d hw hphp hbrk h

end Sys2Proof.Machine
end

section
/-! PROOFS. The access log of an instruction: the addresses it stores to, how many accesses it makes with the reads of
its own bytes, and what that leaves of the memory (20_memory.md R52, R62 to R64). -/

namespace Sys2Proof.Machine

/-- The address an access stores to, none for a read. -/
def Access.storesTo : Access → Option Word
  | .read _ _ => none
  | .write addr _ => some addr

/-- The addresses a list of accesses stores to, in order. -/
def writtenAddrs (accs : List Access) : List Word := accs.filterMap Access.storesTo

@[simp] theorem writtenAddrs_nil : writtenAddrs [] = [] := rfl

@[simp] theorem writtenAddrs_read (a : Word) (v : Byte) (accs : List Access) :
    writtenAddrs (.read a v :: accs) = writtenAddrs accs := rfl

@[simp] theorem writtenAddrs_write (a : Word) (v : Byte) (accs : List Access) :
    writtenAddrs (.write a v :: accs) = a :: writtenAddrs accs := rfl

@[simp] theorem writtenAddrs_append (xs ys : List Access) :
    writtenAddrs (xs ++ ys) = writtenAddrs xs ++ writtenAddrs ys := List.filterMap_append

namespace Platform

/-- Accesses leave the byte array alone at every address they do not store to or store to through a hook
(20_memory.md R52; assumption log 7). -/
theorem replay_ram_read {accs : List Access} {b : Nat} :
    ∀ {m m' : Platform}, m.replay accs = some m' → m.ram.wf = true →
      (∀ w ∈ writtenAddrs accs, w.toNat = b → m.hooked w = true) → m'.ram.read b = m.ram.read b := by
  induction accs with
  | nil => rintro m _ ⟨⟩ _ _; rfl
  | cons acc accs ih =>
    intro m m' h hm hb
    cases acc with
    | read a v =>
      obtain ⟨-, h⟩ := Option.ite_none_right_eq_some.mp h
      rw [ih h (read_wf hm a) (by simpa using hb), read_ram]
    | write a v =>
      simp only [writtenAddrs_write, List.forall_mem_cons] at hb
      obtain ⟨ha, hb⟩ := hb
      rw [ih h (write_wf hm a v) (by simpa using hb)]
      by_cases hab : a.toNat = b
      · rw [write_of_hooked m (ha hab)]
      · exact write_ram_read_ne hm v (Ne.symm hab)

@[simp] theorem writtenAddrs_readByte (m : Platform) (a : Word) : writtenAddrs (m.readByte a).accesses = [] := rfl

@[simp] theorem writtenAddrs_readWord (m : Platform) (lo hi : Word) :
    writtenAddrs (m.readWord lo hi).accesses = [] := rfl

@[simp] theorem readByte_accesses_length (m : Platform) (a : Word) : (m.readByte a).accesses.length = 1 := rfl

@[simp] theorem readWord_accesses_length (m : Platform) (lo hi : Word) : (m.readWord lo hi).accesses.length = 2 := rfl

theorem readAll_accesses_length (addrs : List Word) :
    ∀ m : Platform, (m.readAll addrs).accesses.length = addrs.length := by
  induction addrs with
  | nil => intro m; rfl
  | cons a addrs ih => intro m; simp [readAll, ih, Nat.add_comm]

end Platform

namespace State

variable (s : State)

/-! The accesses of a data operand: the pointer bytes, then at most one read and one write. -/

@[simp] theorem writtenAddrs_effectiveAddress (op : Operand) : writtenAddrs (s.effectiveAddress op).accesses = [] := by
  cases op <;> rfl

@[simp] theorem writtenAddrs_operandInMemory (op : Operand) : writtenAddrs (s.operandInMemory op).accesses = [] := by
  simp [operandInMemory]

theorem writtenAddrs_loaded (op : Operand) : writtenAddrs (s.loaded op).accesses = [] := by
  cases op with
  | imm b => rfl
  | _ => exact writtenAddrs_operandInMemory s _

theorem writtenAddrs_stored (op : Operand) (v : Byte) : writtenAddrs (s.stored op v).accesses = [(s.resolve op).1] := by
  simp [stored, resolve_eq]

theorem writtenAddrs_modified (op : Operand) (v : Byte) :
    writtenAddrs (s.modified op v).accesses = [(s.resolve op).1] := by
  simp [modified, resolve_eq]

/-- The two pointer modes read two bytes and have one operand byte; the absolute modes have two and read none. -/
theorem length_add_effectiveAddress_le (op : Operand) : op.length + (s.effectiveAddress op).accesses.length ≤ 4 := by
  cases op <;> simp [effectiveAddress, Operand.length, Operand.mode, Mode.length]

theorem operandInMemory_accesses_length (op : Operand) :
    (s.operandInMemory op).accesses.length = (s.effectiveAddress op).accesses.length + 1 := by
  simp [operandInMemory]

theorem loaded_accesses_length_le (op : Operand) :
    (s.loaded op).accesses.length ≤ (s.effectiveAddress op).accesses.length + 1 := by
  cases op with
  | imm b => exact Nat.zero_le _
  | _ => exact (operandInMemory_accesses_length s _).le

theorem length_add_loaded_le (op : Operand) : op.length + (s.loaded op).accesses.length ≤ 6 := by
  have := s.length_add_effectiveAddress_le op
  have := s.loaded_accesses_length_le op
  omega

theorem length_add_stored_le (op : Operand) (v : Byte) : op.length + (s.stored op v).accesses.length ≤ 6 := by
  have := s.length_add_effectiveAddress_le op
  simp only [stored, List.length_append, List.length_singleton]
  omega

theorem length_add_modified_le (op : Operand) (v : Byte) : op.length + (s.modified op v).accesses.length ≤ 6 := by
  have := s.length_add_effectiveAddress_le op
  simp only [modified, operandInMemory_accesses_length, List.length_append, List.length_singleton]
  omega

end State

/-- What an instruction adds to the access log: it stores to the listed addresses, and with the reads of the
instruction's own bytes there are at most six accesses. -/
def LogsAccesses (i : Instr) (s t : State) : Prop :=
  ∃ accs, t.bus = s.bus ++ accs ∧ writtenAddrs accs = storedAddrs i s ∧ i.length + accs.length ≤ 6

open State in
/-- The instructions grouped by the shared operation that makes their accesses: those with a data operand by the laws of
its accesses, the others by their fixed log. -/
theorem exec_logsAccesses {i : Instr} {s t : State} (h : exec i s = .next t) : LogsAccesses i s t := by
  cases i
  case lda op | ldx op | ldy op | lax op | adc op | sbc op | and op | ora op | eor op | bit op | cmp op | cpx op
    | cpy op =>
    simp only [exec, execLda, execLdx, execLdy, execLax, execAdc, execSbc, execAnd, execOra, execEor, execBit, execCmp,
      execCpx, execCpy, loadOperand_eq, Host.Outcome.next.injEq] at h
    subst h
    exact ⟨_, rfl, writtenAddrs_loaded s op, length_add_loaded_le s op⟩
  case sta op | stx op | sty op | sax op =>
    simp only [exec, execSta, execStx, execSty, execSax, storeOperand_eq, Host.Outcome.next.injEq] at h
    subst h
    exact ⟨_, rfl, writtenAddrs_stored s op _, length_add_stored_le s op _⟩
  case inc op | dec op | dcp op | isb op | asl op | lsr op | rol op | ror op | slo op | rla op | sre op | rra op =>
    simp only [exec, execInc, execDec, execDcp, execIsb, modifyOperand_eq, execAsl, execLsr, execRol, execRor, execSlo,
      execRla, execSre, execRra, shiftOperand_eq, Host.Outcome.next.injEq] at h
    subst h
    exact ⟨_, rfl, writtenAddrs_modified s op _, length_add_modified_le s op _⟩
  case' bcc off | bcs off | beq off | bne off | bmi off | bpl off | bvc off | bvs off =>
    simp only [exec, execBcc, execBcs, execBeq, execBne, execBmi, execBpl, execBvc, execBvs, branch_eq,
      Host.Outcome.next.injEq] at h
    subst h
    refine ⟨[], (List.append_nil _).symm, rfl, ?_⟩
  case' tax | tay | txa | tya | tsx | txs | aslAcc | lsrAcc | rolAcc | rorAcc | inx | iny | dex | dey | jmp
    | clc | sec | cli | sei | clv | cld | sed | nop =>
    cases h
    refine ⟨[], (List.append_nil _).symm, rfl, ?_⟩
  case' jmpInd ptr =>
    simp only [exec, execJmpInd, read16Bug_eq, Host.Outcome.next.injEq] at h
    subst h
    refine ⟨_, rfl, rfl, ?_⟩
  case' pha | php =>
    cases h
    refine ⟨_, rfl, rfl, ?_⟩
  case' jsr =>
    cases h
    refine ⟨_, List.append_assoc .., rfl, ?_⟩
  case' pla | plp =>
    simp only [exec, execPla, execPlp, pull_eq, Host.Outcome.next.injEq] at h
    subst h
    refine ⟨_, rfl, rfl, ?_⟩
  case' rts =>
    simp only [exec, execRts, pull_eq, Host.Outcome.next.injEq] at h
    subst h
    refine ⟨_, List.append_assoc .., rfl, ?_⟩
  case' brk =>
    simp only [exec, execBrk, enterTrap_eq, Host.Outcome.next.injEq] at h
    subst h
    refine ⟨_, List.append_assoc .., rfl, ?_⟩
  case' rti =>
    simp only [exec, execRti, returnFromTrap_eq, Host.Outcome.next.injEq] at h
    subst h
    refine ⟨_, List.append_assoc .., rfl, ?_⟩
  all_goals simp [Instr.length, Instr.mode, Mode.length]

/-- The platform has seen exactly accesses that store to the listed addresses. -/
theorem exec_replay {i : Instr} {s t : State} (h : exec i s = .next t) :
    ∃ accs, s.mem.replay accs = some t.mem ∧ writtenAddrs accs = storedAddrs i s := by
  obtain ⟨accs, hbus, hmem⟩ := (exec_frame h).bus.traced
  obtain ⟨accs', hbus', hwritten, -⟩ := exec_logsAccesses h
  obtain rfl : accs = accs' := List.append_cancel_left (hbus.symm.trans hbus')
  exact ⟨accs, hmem, hwritten⟩

/-- Settles O54: the accesses of an instruction replay to the platform it leaves. -/
theorem memoryChangesOnlyAtStoredAddresses : Obligations.MemoryChangesOnlyAtStoredAddresses := by
  intro i s t hwf h
  obtain ⟨accs, hmem, hwritten⟩ := exec_replay h
  have hooks := Platform.replay_hooks hmem
  have ram (b : Nat) (hb : ∀ w ∈ storedAddrs i s, w.toNat = b → s.mem.hooked w = true) :
      t.mem.ram.read b = s.mem.ram.read b := Platform.replay_ram_read hmem hwf (hwritten ▸ hb)
  refine ⟨hooks, ram, fun addr hs hnot => ?_⟩
  have ht : t.mem.hooked addr = false := by rw [Platform.hooked, hooks]; exact hs
  rw [State.byteAt, State.byteAt, Platform.read_of_unhooked _ ht, Platform.read_of_unhooked _ hs]
  exact ram addr.toNat fun w hw e => absurd (BitVec.eq_of_toNat_eq e ▸ hw) hnot

/-- The bytes of an instruction of the opcode table are as many as its row says. -/
theorem length_instr_of_mem {row : Row} (h : row ∈ opcodeTable) (b1 b2 : Byte) :
    (row.instr b1 b2).length = row.length := by
  obtain ⟨-, hmode, -⟩ := opcodeTable_coherent row h b1 b2
  rw [Instr.length, hmode, Row.length]

/-- An undefined opcode is one read; an instruction of the table makes at most six accesses, its own bytes included. -/
theorem fetchAndExecute_bus_length_le {s t : State} (h : fetchAndExecute s = .next t) :
    t.bus.length ≤ s.bus.length + 6 := by
  cases hr : lookupOpcode (s.byteAt s.pc) with
  | none =>
    rw [fetchAndExecute, fetch_of_none hr] at h
    cases h
    simp [State.haltUndecodable, State.enterHalted]
  | some row =>
    rw [fetchAndExecute, fetch_of_row hr] at h
    dsimp only at h
    split at h
    · next u hu =>
      cases h
      obtain ⟨accs, hbus, -, hlen⟩ := exec_logsAccesses hu
      rw [length_instr_of_mem (lookupOpcode_some hr).1] at hlen
      simp only [State.bankCycles_bus, hbus, State.afterMoves_eq, State.note_bus, State.setMem_bus, List.length_append,
        Platform.readAll_accesses_length, List.length_map, List.length_range]
      omega
    · cases h
    · cases h

/-- An interrupt entry makes three pushes and the two reads of its vector (60_exceptions.md R308). -/
theorem enterInterrupt_bus_length (s : State) (k : Interrupt) :
    (s.enterInterrupt k).bus.length = s.bus.length + 5 := by
  simp [State.enterInterrupt_eq, State.enterTrap_eq]

/-- Settles O18, by the cases of a call. -/
theorem atMostSixAccessesPerStep : Obligations.AtMostSixAccessesPerStep := by
  intro s t h
  rcases step_next_cases h with rfl | ⟨-, rfl⟩ | rfl | ⟨-, rfl⟩ | ⟨-, k, rfl⟩ | ⟨-, -, hf⟩
  · simp
  · simp [State.drain]
  · simp
  · simp [State.enterHalted]
  · simp [enterInterrupt_bus_length]
  · simpa using fetchAndExecute_bus_length_le hf

end Sys2Proof.Machine
end

section
/-! PROOFS. The decoder and the encoder are inverse (30_encoding.md R80 to R90). Both directions rest on the bytes a row
decodes from (`decode_row`) and encodes to (`encode_instr_of_lookup`); the first also needs that every entry of the tables
by mnemonic is a row of the opcode table (`exists_row_of_opcode`). -/

namespace Sys2Proof

open Machine

/-- What a row makes depends only on as many operand bytes as its length has (R83, R84). -/
theorem Row.instr_eq_of_take_eq {row : Row} {b1 b2 c1 c2 : Byte}
    (h : [b1, b2].take (row.length - 1) = [c1, c2].take (row.length - 1)) : row.instr b1 b2 = row.instr c1 c2 := by
  obtain ⟨opcode, form, cycles, illegal⟩ := row
  cases form with
  | implied i => rfl
  | acc i => rfl
  | rel make | abs make | ind make => simp_all [Row.length, Row.mode, Mode.length, Row.instr]
  | data m make => cases m <;> simp_all [Row.length, Row.mode, Mode.length, Row.instr, Operand.ofBytes]

/-- An opcode byte without a row is refused as undefined, whatever follows (R85). -/
theorem decode_of_lookup_none {op : Byte} (h : lookupOpcode op = none) (rest : List Byte) :
    decode (op :: rest) = .error (.undefinedOpcode op) := by
  simp only [decode, h]

/-- The decoder takes the opcode byte and the operand bytes of its row, and leaves what follows (R81, R82, R85). -/
theorem decode_row {op : Byte} {row : Row} (h : lookupOpcode op = some row) (b1 b2 : Byte) (rest : List Byte) :
    decode (op :: ([b1, b2].take (row.length - 1) ++ rest)) = .ok (row.instr b1 b2, rest) := by
  have hlen : row.length = 1 ∨ row.length = 2 ∨ row.length = 3 := Mode.length_cases row.mode
  rcases hlen with hl | hl | hl
  all_goals
    simp only [decode, h, hl, List.take, List.nil_append, List.cons_append, Nat.reduceSub]
  · rw [Row.instr_eq_of_take_eq (b1 := 0) (b2 := 0) (c1 := b1) (c2 := b2) (by simp [hl])]
  · rw [Row.instr_eq_of_take_eq (b1 := b1) (b2 := 0) (c1 := b1) (c2 := b2) (by simp [hl])]

/-- What decodes is an opcode byte with a row, the operand bytes of the row's length, and the rest. -/
theorem decode_eq_ok_iff {bytes : List Byte} {i : Instr} {rest : List Byte} :
    decode bytes = .ok (i, rest) ↔
      ∃ op row b1 b2, lookupOpcode op = some row ∧ i = row.instr b1 b2 ∧
        bytes = op :: ([b1, b2].take (row.length - 1) ++ rest) := by
  constructor
  · intro h
    cases bytes with
    | nil => cases h
    | cons op tail =>
      cases hr : lookupOpcode op with
      | none => simp [decode_of_lookup_none hr] at h
      | some row =>
        simp only [decode, hr] at h
        split at h
        next hl => cases h; exact ⟨op, row, 0, 0, hr, rfl, by simp [hl]⟩
        next b1 _ hl => cases h; exact ⟨op, row, b1, 0, hr, rfl, by simp [hl]⟩
        next b1 b2 _ hl => cases h; exact ⟨op, row, b1, b2, hr, rfl, by simp [hl]⟩
        · cases h
  · rintro ⟨op, row, b1, b2, hr, rfl, rfl⟩
    exact decode_row hr b1 b2 rest

/-- The encoder gives an instruction of the opcode table its row's opcode byte and its operand bytes. -/
theorem encode_instr_of_lookup {op : Byte} {row : Row} (h : lookupOpcode op = some row) (b1 b2 : Byte) :
    encode (row.instr b1 b2) = some (op :: [b1, b2].take (row.length - 1)) := by
  obtain ⟨hmem, rfl⟩ := lookupOpcode_some h
  obtain ⟨-, -, hop, hbytes⟩ := opcodeTable_coherent row hmem b1 b2
  rw [encode, hop, hbytes, Option.map_some]

/-- Assembling the bytes of a data operand gives the operand back (R84). -/
theorem Operand.ofBytes_bytes (op : Operand) : ofBytes op.mode (op.bytes.getD 0 0) (op.bytes.getD 1 0) = op := by
  cases op <;> simp [Operand.ofBytes, Operand.mode, Operand.bytes]

/-- A mnemonic's line of the tables of R87 and R88 agrees with the matrix of R86: each column's opcode byte has a row of
that mode and mnemonic. -/
def AgreesWithMatrix (make : Operand → Instr) (columns : List (DataMode × Byte)) : Prop :=
  columns.map (fun c => (lookupOpcode c.2).map Row.form) = columns.map fun c => some (.data c.1 make)

/-- An operand whose mode has a column is read back by the row of the column's opcode byte. -/
theorem exists_row_of_opcodeIn {make : Operand → Instr} {columns : List (DataMode × Byte)} {op : Operand} {o : Byte}
    (ho : opcodeIn op columns = some o) (hline : AgreesWithMatrix make columns) :
    ∃ row b1 b2, lookupOpcode o = some row ∧ row.instr b1 b2 = make op := by
  obtain ⟨before, after, hcolumns, -⟩ := List.lookup_eq_some_iff.1 ho
  have hmem : (op.mode, o) ∈ columns := by simp [hcolumns]
  obtain ⟨row, hrow, hform⟩ := Option.map_eq_some_iff.1 (List.map_inj_left.1 hline _ hmem)
  exact ⟨row, op.bytes.getD 0 0, op.bytes.getD 1 0, hrow, by simp only [Row.instr, hform, op.ofBytes_bytes]⟩

/-- The row of an instruction's opcode byte makes the instruction from some operand bytes. Each line of the tables by
mnemonic is compared with the matrix by evaluation (R86 to R88). -/
theorem exists_row_of_opcode {i : Instr} {o : Byte} (h : i.opcode = some o) :
    ∃ row b1 b2, lookupOpcode o = some row ∧ row.instr b1 b2 = i := by
  cases i with
  | lda op | ldx op | ldy op | sta op | stx op | sty op | adc op | sbc op | and op | ora op | eor op | bit op | cmp op
  | cpx op | cpy op | asl op | lsr op | rol op | ror op | inc op | dec op | lax op | sax op | dcp op | isb op | slo op
  | rla op | sre op | rra op => exact exists_row_of_opcodeIn h rfl
  | jmp addr | jsr addr | jmpInd addr =>
    cases h
    exact ⟨_, loByte addr, hiByte addr, rfl, by simp only [Row.instr, joinBytes_hi_lo]⟩
  | bcc off | bcs off | beq off | bne off | bmi off | bpl off | bvc off | bvs off =>
    cases h
    exact ⟨_, off, 0, rfl, rfl⟩
  | tax | tay | txa | tya | tsx | txs | aslAcc | lsrAcc | rolAcc | rorAcc | inx | iny | dex | dey | rts | pha | php | pla
  | plp | clc | sec | cli | sei | clv | cld | sed | nop | brk | rti =>
    cases h
    exact ⟨_, 0, 0, rfl, rfl⟩

open Laws.Encodable in
/-- The statements of Laws/PerInstr.lean together: an instruction has an encoding, of its length, exactly when it is
well-formed. -/
theorem encodable : ∀ i : Instr, Laws.Encodable.Statement i
  | .lda op => lda op | .ldx op => ldx op | .ldy op => ldy op | .sta op => sta op | .stx op => stx op
  | .sty op => sty op | .tax => tax | .tay => tay | .txa => txa | .tya => tya | .tsx => tsx | .txs => txs
  | .adc op => adc op | .sbc op => sbc op | .and op => and op | .ora op => ora op | .eor op => eor op
  | .bit op => bit op | .cmp op => cmp op | .cpx op => cpx op | .cpy op => cpy op | .aslAcc => aslAcc
  | .asl op => asl op | .lsrAcc => lsrAcc | .lsr op => lsr op | .rolAcc => rolAcc | .rol op => rol op
  | .rorAcc => rorAcc | .ror op => ror op | .inc op => inc op | .dec op => dec op | .inx => inx | .iny => iny
  | .dex => dex | .dey => dey | .jmp target => jmp target | .jmpInd ptr => jmpInd ptr | .jsr target => jsr target
  | .rts => rts | .bcc off => bcc off | .bcs off => bcs off | .beq off => beq off | .bne off => bne off
  | .bmi off => bmi off | .bpl off => bpl off | .bvc off => bvc off | .bvs off => bvs off | .pha => pha
  | .php => php | .pla => pla | .plp => plp | .clc => clc | .sec => sec | .cli => cli | .sei => sei | .clv => clv
  | .cld => cld | .sed => sed | .nop => nop | .brk => brk | .rti => rti | .lax op => lax op | .sax op => sax op
  | .dcp op => dcp op | .isb op => isb op | .slo op => slo op | .rla op => rla op | .sre op => sre op
  | .rra op => rra op

/-- A well-formed instruction has an encoding, of as many bytes as its length (R81, R83). -/
theorem exists_encode_of_wellFormed {i : Instr} (h : i.wellFormed = true) :
    ∃ bytes, encode i = some bytes ∧ bytes.length = i.length := by
  have hi := encodable i
  unfold Laws.Encodable.Statement at hi
  split at hi
  · next bytes he => exact ⟨bytes, he, hi.2⟩
  · simp [h] at hi

/-- An opcode byte has no row when it is none of the table's opcodes. -/
theorem lookupOpcode_eq_none_iff {op : Byte} : lookupOpcode op = none ↔ op ∉ opcodeTable.map Row.opcode := by
  simp [lookupOpcode]

/-- No listed byte has a row. The comparison is of the bytes as numbers, which the kernel compares fast. -/
theorem undefinedOpcodes_disjoint : undefinedOpcodes.Disjoint (opcodeTable.map Row.opcode) := by
  have hnat : ∀ n ∈ undefinedOpcodes.map BitVec.toNat, n ∉ (opcodeTable.map fun r => r.opcode.toNat) := by
    decide +kernel
  intro op hundef hrow
  refine hnat op.toNat (List.mem_map_of_mem hundef) ?_
  simpa using List.mem_map_of_mem (f := BitVec.toNat) hrow

theorem undefinedOpcodes_length : undefinedOpcodes.length = 53 := rfl

theorem undefinedOpcodes_nodup : undefinedOpcodes.Nodup := by decide

/-- A byte is listed or has a row: the two lists have no byte in common, and 53 + 203 is the number of bytes. -/
theorem mem_undefinedOpcodes_append (op : Byte) : op ∈ undefinedOpcodes ++ opcodeTable.map Row.opcode := by
  have hnodup := List.nodup_append'.2 ⟨undefinedOpcodes_nodup, opcodeTable_opcodes_nodup, undefinedOpcodes_disjoint⟩
  have hcard := List.toFinset_card_of_nodup hnodup
  rw [List.length_append, List.length_map, undefinedOpcodes_length, opcodeTable_length] at hcard
  have huniv := (Finset.card_eq_iff_eq_univ _).1 (hcard.trans (FinEnum.card_eq_fintypeCard (α := Byte)))
  exact List.mem_toFinset.1 (huniv ▸ Finset.mem_univ op)

/-- The 53 listed bytes are those without a row of the opcode table (R90). -/
theorem mem_undefinedOpcodes_iff {op : Byte} : op ∈ undefinedOpcodes ↔ lookupOpcode op = none := by
  rw [lookupOpcode_eq_none_iff]
  exact ⟨fun h => undefinedOpcodes_disjoint h, (List.mem_append.1 (mem_undefinedOpcodes_append op)).resolve_right⟩

/-- Settles O1: the row of the opcode byte makes the instruction again from its operand bytes. -/
theorem decodeReadsWhatEncodeWrites : Obligations.DecodeReadsWhatEncodeWrites := by
  intro i rest hwf
  obtain ⟨bytes, henc, hlen⟩ := exists_encode_of_wellFormed hwf
  refine ⟨bytes, henc, hlen, ?_⟩
  obtain ⟨op, hop, -⟩ := Option.map_eq_some_iff.1 henc
  obtain ⟨row, b1, b2, hrow, rfl⟩ := exists_row_of_opcode hop
  cases henc.symm.trans (encode_instr_of_lookup hrow b1 b2)
  exact decode_row hrow b1 b2 rest

/-- Settles O2: every row of the opcode table is coherent with the encoder. -/
theorem encodeWritesWhatDecodeReads : Obligations.EncodeWritesWhatDecodeReads := by
  intro bytes i rest h
  obtain ⟨op, row, b1, b2, hrow, rfl, rfl⟩ := decode_eq_ok_iff.1 h
  obtain ⟨hwf, -⟩ := opcodeTable_coherent row (lookupOpcode_some hrow).1 b1 b2
  exact ⟨hwf, _, encode_instr_of_lookup hrow b1 b2, rfl⟩

/-- Settles O3: two bytes after a byte with a row are enough for every length. -/
theorem undefinedOpcodesAreTheListed53 : Obligations.UndefinedOpcodesAreTheListed53 := by
  refine ⟨undefinedOpcodes_length, undefinedOpcodes_nodup, fun op b1 b2 rest => ⟨fun h => ?_, fun h => ?_⟩⟩
  · exact decode_of_lookup_none (mem_undefinedOpcodes_iff.1 h) _
  · obtain ⟨row, hrow⟩ := Option.ne_none_iff_exists'.1 (mt mem_undefinedOpcodes_iff.2 h)
    have hd := decode_row hrow b1 b2 ([b1, b2].drop (row.length - 1) ++ rest)
    rw [← List.append_assoc, List.take_append_drop] at hd
    exact ⟨_, _, hd⟩

/-- Settles O4, by running the decoder on the eight sequences. -/
theorem wordsOfTheSpecDecode : Obligations.WordsOfTheSpecDecode :=
  ⟨rfl, rfl, rfl, rfl, rfl, rfl, rfl, rfl⟩

end Sys2Proof
end

section
/-! PROOFS. The construction of a fixed-width value (40_fixed_width_alu.md R100, R101), and the addition, subtraction and
compare of the ALU (R121, R122, R127). Bit 7 tests of the overflow formulas are read as comparisons of sign bits. -/

namespace Sys2Proof

namespace FixedWidth

variable {w : Nat}

/-- Construction truncates any integer to its residue, negative ones included (R101). -/
theorem construct_toNat (n : Int) : ((construct n : BitVec w).toNat : Int) = n % 2 ^ w := by
  have hpos : (0 : Int) < 2 ^ w := by positivity
  simp [construct, BitVec.toNat_ofInt, Int.emod_nonneg n hpos.ne']

/-- The wraparound law of R101. -/
theorem construct_add_mul_two_pow (n k : Int) : (construct (n + k * 2 ^ w) : BitVec w) = construct n := by
  apply BitVec.eq_of_toNat_eq
  zify
  simp only [construct_toNat, Int.add_mul_emod_self_right]

/-- The sign of a value is read off its unsigned pattern (R100). -/
theorem value_true (hw : 0 < w) (v : BitVec w) :
    value true v = if (v.toNat : Int) < 2 ^ (w - 1) then (v.toNat : Int) else v.toNat - 2 ^ w := by
  obtain ⟨k, rfl⟩ := Nat.exists_eq_succ_of_ne_zero hw.ne'
  have hhalf : 2 * v.toNat < 2 ^ (k + 1) ↔ (v.toNat : Int) < 2 ^ k := by
    zify
    rw [pow_succ]
    omega
  simp [value, BitVec.toInt_eq_toNat_cond, hhalf]

end FixedWidth

namespace Machine

/-- The sign-bit test of the overflow formulas: the two bytes agree in sign. -/
theorem xor_and_signBit_eq_zero_iff (a b : Byte) : (a ^^^ b) &&& 0x80 = 0 ↔ a.msb = b.msb := by
  have hmask : (a ^^^ b) &&& 0x80 = if (a ^^^ b).msb then 0x80 else 0 := BitVec.and_twoPow (a ^^^ b) 7
  rw [hmask, BitVec.msb_xor]
  cases a.msb <;> cases b.msb <;> decide

theorem aluAdc_r_toNat (a m : Byte) (c : Bool) :
    (aluAdc a m c).r.toNat = (a.toNat + m.toNat + c.toNat) % 256 :=
  BitVec.toNat_ofNat _ _

theorem aluSbc_r_toNat (a m : Byte) (c : Bool) :
    ((aluSbc a m c).r.toNat : Int) = ((a.toNat : Int) - m.toNat - ((1 - c.toNat : Nat) : Int)) % 256 :=
  FixedWidth.construct_toNat (w := 8) _

theorem aluAdc_v_iff (a m : Byte) (c : Bool) :
    (aluAdc a m c).v = true ↔ (a ^^^ m) &&& 0x80 = 0 ∧ (a ^^^ (aluAdc a m c).r) &&& 0x80 ≠ 0 := by
  simp only [aluAdc_eq, decide_eq_true_eq]

theorem aluSbc_v_iff (a m : Byte) (c : Bool) :
    (aluSbc a m c).v = true ↔ (a ^^^ m) &&& 0x80 ≠ 0 ∧ (a ^^^ (aluSbc a m c).r) &&& 0x80 ≠ 0 := by
  simp only [aluSbc_eq, decide_eq_true_eq]

/-- Overflow of ADC is the signed sum leaving the signed range, as R121 derives: with the signs known, each side is a
bound on the unsigned sum. -/
theorem aluAdc_v_iff_signed_sum (a m : Byte) (c : Bool) :
    (aluAdc a m c).v = true ↔
      ¬ (-128 ≤ a.toInt + m.toInt + (c.toNat : Int) ∧ a.toInt + m.toInt + (c.toNat : Int) ≤ 127) := by
  have hr := aluAdc_r_toNat a m c
  have ha := a.isLt
  have hm := m.isLt
  have hc := c.toNat_le
  rw [aluAdc_v_iff, xor_and_signBit_eq_zero_iff, ne_eq, xor_and_signBit_eq_zero_iff]
  simp only [BitVec.msb_eq_decide, decide_eq_decide, hr, BitVec.toInt_eq_toNat_cond]
  omega

/-- The result of SBC is that of ADC of the complement: `-m` is `~m + 1`, and a borrow takes that 1 back (R122). -/
theorem sub_borrow_eq_add_not (a m : Byte) (c : Bool) :
    a - m - (if c then 0 else 1) = a + ~~~m + (if c then 1 else 0) := by
  have hnot : ~~~m = -m - 1 := BitVec.not_eq_neg_add m
  rw [hnot]
  split_ifs <;> ring

/-- No borrow in the subtraction is a carry out of the addition of the complement, which is `255 - m` (R122). -/
theorem no_borrow_iff_carry_of_not (a m : Byte) (c : Bool) :
    m.toNat + (1 - c.toNat) ≤ a.toNat ↔ a.toNat + (~~~m).toNat + c.toNat > 255 := by
  have hm := m.isLt
  have hc := c.toNat_le
  rw [BitVec.toNat_not]
  omega

/-- Signs differ exactly when the sign of the complement agrees. -/
theorem signs_differ_iff_agree_with_not (a m : Byte) :
    (a ^^^ m) &&& 0x80 ≠ 0 ↔ (a ^^^ ~~~m) &&& 0x80 = 0 := by
  rw [ne_eq, xor_and_signBit_eq_zero_iff, xor_and_signBit_eq_zero_iff, BitVec.msb_not]
  cases a.msb <;> cases m.msb <;> decide

/-- Settles O27: result, carry and overflow agree, and N and Z are those of the result. -/
theorem subtractionIsAdditionOfComplement : Obligations.SubtractionIsAdditionOfComplement := by
  intro a m c
  simp only [aluSbc_eq, aluAdc_eq, sub_borrow_eq_add_not, no_borrow_iff_carry_of_not,
    signs_differ_iff_agree_with_not a m]

/-- Settles O25: the laws of construction hold at every width, the sign at every positive one. -/
theorem fixedWidthConstructionTruncates : Obligations.FixedWidthConstructionTruncates := by
  intro w hw n k
  have hpos : 0 < w := by omega
  have hsigned := FixedWidth.value_true hpos (FixedWidth.construct n)
  rw [FixedWidth.construct_toNat] at hsigned
  exact ⟨FixedWidth.construct_toNat n, FixedWidth.construct_add_mul_two_pow n k, FixedWidth.construct_toNat n, hsigned⟩

/-- Settles O26. -/
theorem additionFormula : Obligations.AdditionFormula := fun a m c =>
  ⟨aluAdc_r_toNat a m c, decide_eq_true_iff, aluAdc_v_iff a m c, aluAdc_v_iff_signed_sum a m c, negOf_eq _,
    beq_iff_eq⟩

/-- Settles O28. -/
theorem subtractionFormula : Obligations.SubtractionFormula := fun a m c =>
  ⟨aluSbc_r_toNat a m c, decide_eq_true_iff, aluSbc_v_iff a m c, negOf_eq _, beq_iff_eq⟩

/-- Settles O29: the clauses on the difference are the definition, the others its form on bit vectors. -/
theorem compareFormula : Obligations.CompareFormula := by
  refine fun reg m => ⟨decide_eq_true_iff, negOf_eq _, beq_iff_eq, ?_, ?_⟩
  · rw [aluCmp_eq, decide_eq_true_iff]
  · simp [aluCmp_eq]

end Machine

end Sys2Proof
end

section
/-! PROOFS. The exact next state of one call of `step()`, branch by branch (42_execution_engine.md R161 to R165, R175). -/

namespace Sys2Proof.Machine

/-- The samples of the lines do not change what the platform answers. -/
@[simp] theorem State.beginTick_byteAt (s : State) (addr : Word) : s.beginTick.byteAt addr = s.byteAt addr := by
  simp [State.byteAt]

/-- With cycles pending a call drains one. -/
theorem step_of_pending {s : State} (hs : s.started = true) (hp : s.pendingCycles > 0) :
    step s = .next s.beginTick.drain := by
  simp [step, hs, hp]

/-- In Halted with no cycles pending a call only reports. -/
theorem step_of_halted {s : State} (hs : s.started = true) (hp : s.pendingCycles = 0) (hh : s.halted = true) :
    step s = .next (s.beginTick.report (.halted none)) := by
  simp [step, hs, hp, hh]

/-- At `HALT_ADDR` a call enters Halted. -/
theorem step_of_haltAddr {s : State} (hs : s.started = true) (hp : s.pendingCycles = 0) (hh : s.halted = false)
    (ha : s.cfg.haltAddr = some s.pc) : step s = .next (s.beginTick.enterHalted .haltAddressReached) := by
  simp [step, hs, hp, hh, ha]

/-- At an undefined opcode a ready state reads that byte and halts. -/
theorem step_of_undefined {s : State} (h : s.Ready) (hr : lookupOpcode (s.byteAt s.pc) = none) :
    step s = .next (s.beginTick.afterMoves (s.mem.readByte s.pc)).haltUndecodable := by
  have hfetch : s.beginTick.fetch = (none, s.beginTick.afterMoves (s.mem.readByte s.pc)) := by
    simpa using fetch_of_none (s := s.beginTick) (by simpa using hr)
  rw [step_of_ready h, fetchAndExecute, hfetch]

/-- The first `n` bytes of the instruction at PC, read in address order (20_memory.md R63). -/
def State.ownBytes (s : State) (n : Nat) : Moved (List Byte) :=
  s.mem.readAll ((List.range n).map fun k => s.pc + BitVec.ofNat 16 k)

/-- The instruction a row makes of the bytes at PC. -/
def State.instrAtPC (s : State) (row : Row) : Instr :=
  row.instr ((s.ownBytes row.length).value.getD 1 0) ((s.ownBytes row.length).value.getD 2 0)

@[simp] theorem State.beginTick_ownBytes (s : State) (n : Nat) : s.beginTick.ownBytes n = s.ownBytes n := by
  simp [State.ownBytes]

@[simp] theorem State.beginTick_instrAtPC (s : State) (row : Row) : s.beginTick.instrAtPC row = s.instrAtPC row := by
  simp [State.instrAtPC]

/-- At a populated opcode a ready state executes the instruction after reading its own bytes, and banks the row's
cycles. -/
theorem step_of_row {s u : State} {row : Row} (h : s.Ready) (hr : lookupOpcode (s.byteAt s.pc) = some row)
    (hu : exec (s.instrAtPC row) (s.beginTick.afterMoves (s.ownBytes row.length)) = .next u) :
    step s = .next (u.bankCycles row.cycles) := by
  have hfetch : s.beginTick.fetch =
      (some (s.beginTick.instrAtPC row, row.cycles), s.beginTick.afterMoves (s.beginTick.ownBytes row.length)) :=
    fetch_of_row (by simpa using hr)
  rw [State.beginTick_instrAtPC, State.beginTick_ownBytes] at hfetch
  simp only [step_of_ready h, fetchAndExecute, hfetch, hu]

/-- Settles O6. -/
theorem drainingTickOnlyCountsDown : Obligations.DrainingTickOnlyCountsDown := by
  intro s hs hp
  rw [step_of_pending hs hp, State.drain, State.beginTick_pendingCycles]
  rfl

/-- Settles O7. -/
theorem haltedStepChangesNothing : Obligations.HaltedStepChangesNothing := by
  intro s hs hp hh
  exact ⟨step_of_halted hs hp hh, by simpa using hs, by simpa using hp, by simpa using hh⟩

/-- Settles O9. -/
theorem haltAddressHaltsBeforeTheFetch : Obligations.HaltAddressHaltsBeforeTheFetch := by
  intro s hs hp hh ha
  exact step_of_haltAddr hs hp hh ha

/-- Settles O10. -/
theorem undefinedOpcodeHalts : Obligations.UndefinedOpcodeHalts := by
  intro s h hr
  rw [step_of_undefined h hr]
  simp [State.haltUndecodable, State.enterHalted, State.report, State.setPC, State.note, State.setMem, State.beginTick,
    Platform.readByte, State.byteAt]

/-- Settles O11. -/
theorem stepBeforeResetIsHalted : Obligations.StepBeforeResetIsHalted :=
  fun _ hs => step_of_not_started hs

/-- Settles O5: what decodes is what the row of the opcode byte makes of the bytes the fetch reads. -/
theorem stepRunsTheDecodedInstruction : Obligations.StepRunsTheDecodedInstruction := by
  intro s i rest h hdec own
  obtain ⟨row, hr, hlen, hi⟩ := decode_bytesAtPC hdec
  obtain ⟨u, hu⟩ := exec_answers i (s.beginTick.afterMoves own)
  have hinstr : i = s.instrAtPC row := hi
  have hown : own = s.ownBytes row.length := by rw [← hlen]; rfl
  have hstep : step s = .next (u.bankCycles row.cycles) := step_of_row h hr (by rw [← hown, ← hinstr, hu])
  refine ⟨row, hr, ?_⟩
  rw [hstep, hu]
  rfl

end Sys2Proof.Machine
end

section
/-! PROOFS. Runs of several calls: Halted is never left, and an instruction takes its cycles in draining calls
(42_execution_engine.md R161, R162, R168). -/

namespace Sys2Proof.Machine

/-- One more call at the end of a run. -/
theorem run_succ_of_step {k : Nat} {t u : State} (hstep : step t = .next u) :
    ∀ {s : State}, Host.Core.run Sys2Proof.core k s = .next t → Host.Core.run Sys2Proof.core (k + 1) s = .next u := by
  induction k with
  | zero =>
    rintro s ⟨⟩
    rw [run_of_step hstep, run_zero]
  | succ k ih =>
    intro s hrun
    cases hv : step s with
    | next v =>
      rw [run_of_step hv] at hrun ⊢
      exact ih hrun
    | fault r => nomatch r
    | refused r => simp [Host.Core.run, Sys2Proof.core, hv] at hrun

/-- Settles O8, by induction on the number of calls: one more call in Halted changes nothing. -/
theorem haltedNeverLeaves : Obligations.HaltedNeverLeaves := by
  intro k s hs hp hh
  induction k with
  | zero => exact ⟨s, run_zero s, hh, hp, hs, rfl, rfl, rfl, rfl, rfl, rfl, rfl, rfl, fun h => absurd rfl h⟩
  | succ k ih =>
    obtain ⟨t, hrun, hth, htp, hts, ha, hx, hy, hsp, hpc, hflags, hmem, hcfg, -⟩ := ih
    obtain ⟨hstep, hts', htp', hth'⟩ := haltedStepChangesNothing t hts htp hth
    refine ⟨_, run_succ_of_step hstep hrun, hth', htp', hts', ?_⟩
    simp [ha, hx, hy, hsp, hpc, hflags, hmem, hcfg]

/-- Without interrupt inputs, as many calls as there are cycles pending drain them all and do nothing else. -/
theorem run_drains {n : Nat} : ∀ {s : State}, s.started = true → s.cfg.hasInterruptInputs = false →
    s.pendingCycles = n + 1 → Host.Core.run Sys2Proof.core (n + 1) s =
      .next { s with pendingCycles := 0, bus := [], result := some .noOpThisTick } := by
  induction n with
  | zero =>
    intro s hs hin hp
    have hstep := drainingTickOnlyCountsDown s hs (by omega)
    rw [run_of_step hstep, run_zero, State.sampleLines_of_no_inputs s hin, hp]
  | succ n ih =>
    intro s hs hin hp
    have hstep := drainingTickOnlyCountsDown s hs (by omega)
    rw [State.sampleLines_of_no_inputs s hin, hp] at hstep
    rw [run_of_step hstep]
    exact ih hs hin rfl

/-- Settles O13: the first call banks all cycles but one, and the others drain them. -/
theorem instructionTakesItsCyclesInTicks : Obligations.InstructionTakesItsCyclesInTicks := by
  intro s row h hin hr
  obtain ⟨u, hu⟩ := exec_answers (s.instrAtPC row) (s.beginTick.afterMoves (s.ownBytes row.length))
  have hstep := step_of_row h hr hu
  obtain ⟨-, -, hstarted, -, -, hcfg, -⟩ := (exec_frame hu).bus.outside
  obtain ⟨hs, -⟩ := h
  obtain ⟨n, hn⟩ : ∃ n, row.cycles = n + 2 :=
    Nat.exists_eq_add_of_le' (opcodeTable_cycles row (lookupOpcode_some hr).1).1
  refine ⟨u.bankCycles row.cycles, hstep, rfl, ?_⟩
  rw [hn] at hstep ⊢
  rw [run_of_step hstep]
  exact run_drains (by simpa [hs] using hstarted) (by simpa [hcfg] using hin) rfl

end Sys2Proof.Machine
end

section
/-! PROOFS. An instruction that does not transfer control ends at the next instruction (42_execution_engine.md R167). -/

namespace Sys2Proof.Machine

open State in
/-- The instructions grouped by the shared operation that makes their accesses: its law leaves PC alone, and the
instruction then advances it by its own length. -/
theorem exec_advances_pc {i : Instr} {s t : State} (h : exec i s = .next t) (hi : i.transfersControl = false) :
    t.pc = s.pc + BitVec.ofNat 16 i.length := by
  cases i
  case' lda op | ldx op | ldy op | lax op | adc op | sbc op | and op | ora op | eor op | bit op | cmp op | cpx op
    | cpy op =>
    simp only [exec, execLda, execLdx, execLdy, execLax, execAdc, execSbc, execAnd, execOra, execEor, execBit, execCmp,
      execCpx, execCpy, loadOperand_eq, Host.Outcome.next.injEq] at h
  case' sta op | stx op | sty op | sax op =>
    simp only [exec, execSta, execStx, execSty, execSax, storeOperand_eq, Host.Outcome.next.injEq] at h
  case' inc op | dec op | dcp op | isb op | asl op | lsr op | rol op | ror op | slo op | rla op | sre op | rra op =>
    simp only [exec, execInc, execDec, execDcp, execIsb, modifyOperand_eq, execAsl, execLsr, execRol, execRor, execSlo,
      execRla, execSre, execRra, shiftOperand_eq, Host.Outcome.next.injEq] at h
  case jmp | jmpInd | jsr | rts | rti | brk | bcc | bcs | beq | bne | bmi | bpl | bvc | bvs => nomatch hi
  all_goals
    cases h
    rfl

/-- Settles O55: the bus frame of every instruction, and where it leaves PC. -/
theorem instructionsLeaveEngineAndAdvancePC : Obligations.InstructionsLeaveEngineAndAdvancePC :=
  fun _ _ _ h => ⟨(exec_frame h).bus.outside, (exec_frame h).bus.traced, exec_advances_pc h⟩

end Sys2Proof.Machine
end

section
/-! PROOFS. Loads, stores and register transfers: the exact next state of each (43_load_store_transfer.md R180 to R191;
48_illegal_composites.md R280, R281). -/

namespace Sys2Proof.Machine

namespace Platform

theorem hooked_of_hooks_nil {m : Platform} (h : m.hooks = []) (a : Word) : m.hooked a = false := by
  simp [hooked, h]

/-- Where nothing is hooked, reads leave the platform as it is (20_memory.md R52, R62). -/
theorem replay_reads_of_hooks_nil {accs : List Access} {m m' : Platform} (hm : m.hooks = [])
    (hreads : writtenAddrs accs = []) (h : m.replay accs = some m') : m' = m := by
  induction accs with
  | nil => exact (Option.some.inj h).symm
  | cons acc accs ih =>
    cases acc with
    | read a v =>
      obtain ⟨-, h⟩ := Option.ite_none_right_eq_some.mp h
      rw [read_of_unhooked m (hooked_of_hooks_nil hm a)] at h
      exact ih hreads h
    | write a v => cases hreads

end Platform

namespace State

variable (s : State) (op : Operand)

theorem loaded_mem_of_hooks_nil (h : s.mem.hooks = []) : (s.loaded op).mem = s.mem :=
  Platform.replay_reads_of_hooks_nil h (writtenAddrs_loaded s op) (replay_loaded s op)

@[simp] theorem hooked_effectiveAddress (a : Word) : (s.effectiveAddress op).mem.hooked a = s.mem.hooked a := by
  simp [Platform.hooked]

/-- In RAM the byte a store wrote is what its effective address reads as afterwards (20_memory.md R65). -/
theorem stored_read_of_unhooked (hwf : s.mem.ram.wf = true) (v : Byte)
    (h : s.mem.hooked (s.effectiveAddress op).value = false) :
    ((s.stored op v).mem.read (s.effectiveAddress op).value).1 = v := by
  have hread := Platform.read_write_same (m := (s.effectiveAddress op).mem) (by simpa using hwf) (by simpa using h) v
  rw [stored, hread]

/-- A store to a device changes no byte of RAM (assumption log 7). -/
theorem stored_ram_of_hooked (v : Byte) (h : s.mem.hooked (s.effectiveAddress op).value = true) :
    (s.stored op v).mem.ram = s.mem.ram := by
  simp [stored, h]

end State

/-- Settles O33: after the reads of its operand a load writes its register, N and Z, and advances PC. -/
theorem loadsWriteRegisterAndNZ : Obligations.LoadsWriteRegisterAndNZ := by
  intro op s w m f after
  refine ⟨?lda, ?ldx, ?ldy, ?lax, State.loaded_mem_of_hooks_nil s op⟩
  case lda | ldx | ldy | lax =>
    simp only [exec, execLda, execLdx, execLdy, execLax, State.loadOperand_eq]
    rfl

/-- Settles O34: a store is its pointer reads and one write, and advances PC. -/
theorem storesWriteOneByteAndNoFlag : Obligations.StoresWriteOneByteAndNoFlag := by
  intro op s ea stored
  refine ⟨?sta, ?stx, ?sty, ?sax, fun v hwf =>
    ⟨State.stored_read_of_unhooked s op hwf v, State.stored_ram_of_hooked s op v⟩⟩
  case sta | stx | sty | sax =>
    simp only [exec, execSta, execStx, execSty, execSax, State.storeOperand_eq]
    rfl

/-- Settles O35: a transfer makes no access, so its exact next state is its definition in Machine/LoadStore.lean. -/
theorem transfersCopyRegisters : Obligations.TransfersCopyRegisters :=
  fun _ => ⟨rfl, rfl, rfl, rfl, rfl, rfl⟩

end Sys2Proof.Machine
end

section
/-! PROOFS. Arithmetic, logic, test and compare: the exact next state of each (44_arithmetic_logic.md R200 to R208).
Every one is a load of its operand (`State.loadOperand_eq`) followed by an ALU function of Machine/Flags.lean, which the
laws of Laws/Alu.lean turn from the integers into the operations of bit vectors. -/

namespace Sys2Proof.Machine

theorem aluBit_eq (a m : Byte) :
    aluBit a m = { z := decide (a &&& m = 0), n := m.getLsbD 7, v := m.getLsbD 6 } := by
  simp only [aluBit, zeroOf_eq]

/-- Settles O36: the two ALU functions are binary, so D does not enter. -/
theorem adcAndSbcWriteAccumulatorAndFlags : Obligations.AdcAndSbcWriteAccumulatorAndFlags := by
  intro op s w m result sum diff
  refine ⟨?adc, ?sbc⟩
  case adc =>
    simp only [exec, execAdc, State.loadOperand_eq, aluAdc_eq]
    rfl
  case sbc =>
    simp only [exec, execSbc, State.loadOperand_eq, aluSbc_eq]
    rfl

/-- Settles O37: after the reads of its operand a logic instruction writes A, N and Z, and advances PC. -/
theorem logicInstructionsWriteAccumulatorAndNZ : Obligations.LogicInstructionsWriteAccumulatorAndNZ := by
  intro op s w m result
  refine ⟨?and, ?ora, ?eor⟩
  case and | ora | eor =>
    simp only [exec, execAnd, execOra, execEor, State.loadOperand_eq]
    rfl

/-- Settles O38: after the reads of its operand a test or compare writes its flags, and advances PC. -/
theorem bitAndComparesWriteOnlyFlags : Obligations.BitAndComparesWriteOnlyFlags := by
  intro op s w m result compared
  refine ⟨?bit, ?cmp, ?cpx, ?cpy⟩
  case bit =>
    simp only [exec, execBit, State.loadOperand_eq, aluBit_eq]
    rfl
  case cmp | cpx | cpy =>
    simp only [exec, execCmp, execCpx, execCpy, State.loadOperand_eq, aluCmp_eq]
    rfl

end Sys2Proof.Machine
end

section
/-! PROOFS. Shifts, rotates, increments and decrements: the exact next state of each (45_shift_incdec.md R220 to R229).
What follows the accesses of a memory form is said once for any accesses and any result, and the laws of Laws/Alu.lean
turn the ALU functions from the integers into the operations of bit vectors. -/

namespace Sys2Proof.Machine

namespace State

variable (s : State)

/-- After its accesses an instruction sets N and Z of its result and advances PC. -/
theorem afterMoves_setNZ_advance {α : Type} (w : Moved α) (r : Byte) (n : Nat) :
    ((s.afterMoves w).setNZ r).advance n =
      { s with
        mem := w.mem, flags := { s.flags with n := r.getLsbD 7, z := decide (r = 0) }
        pc := s.pc + BitVec.ofNat 16 n, bus := s.bus ++ w.accesses } := rfl

/-- A shift has written its carry before that (45_shift_incdec.md R220 to R223). -/
theorem afterMoves_setFlags_setNZ_advance {α : Type} (w : Moved α) (f : Flags) (r : Byte) (n : Nat) :
    (((s.afterMoves w).setFlags f).setNZ r).advance n =
      { s with
        mem := w.mem, flags := { f with n := r.getLsbD 7, z := decide (r = 0) }
        pc := s.pc + BitVec.ofNat 16 n, bus := s.bus ++ w.accesses } := rfl

/-- A shift of A as an instruction, with no access. -/
theorem shiftAcc_advance (f : Byte → ShiftResult) (n : Nat) :
    (s.shiftAcc f).advance n =
      { s with
        a := (f s.a).r
        flags := { s.flags with c := (f s.a).c, n := (f s.a).r.getLsbD 7, z := decide ((f s.a).r = 0) }
        pc := s.pc + BitVec.ofNat 16 n } := rfl

end State

/-- Settles O39: each form is a shift of A by its ALU function, the rotates with the carry of before. -/
theorem accumulatorShifts : Obligations.AccumulatorShifts := by
  intro s
  refine ⟨?asl, ?lsr, ?rol, ?ror⟩
  case asl | lsr | rol | ror =>
    simp only [exec, execAslAcc, execLsrAcc, execRolAcc, execRorAcc, State.shiftAcc_advance, aluAsl_eq, aluLsr_eq,
      aluRol_eq, aluRor_eq]
    rfl

/-- Settles O40: after the one read and write of its operand a shift writes C, N and Z, and advances PC. -/
theorem memoryShifts : Obligations.MemoryShifts := by
  intro op s
  refine ⟨?asl, ?lsr, ?rol, ?ror⟩
  case asl | lsr | rol | ror =>
    simp only [exec, execAsl, execLsr, execRol, execRor, State.shiftOperand_eq,
      State.afterMoves_setFlags_setNZ_advance, aluAsl_eq, aluLsr_eq, aluRol_eq, aluRor_eq]

/-- Settles O41: after the one read and write of a memory operand, or with no access for a register, N and Z are of
the result, and PC advances. -/
theorem incrementsAndDecrements : Obligations.IncrementsAndDecrements := by
  intro op s
  refine ⟨?inc, ?dec, ?inx, ?iny, ?dex, ?dey⟩
  case inc | dec =>
    simp only [exec, execInc, execDec, State.modifyOperand_eq, State.afterMoves_setNZ_advance, aluInc_eq, aluDec_eq]
  case inx | iny | dex | dey =>
    simp only [exec, execInx, execIny, execDex, execDey, aluInc_eq, aluDec_eq]
    rfl

end Sys2Proof.Machine
end

section
/-! PROOFS. Jumps, call and return, branches: the exact next state of each, and the return to the instruction after the
call (46_control_flow.md R240 to R253). -/

namespace Sys2Proof

/-- The next address of a word's own page: the low byte wraps, with no carry into the high byte (20_memory.md R59). -/
theorem joinBytes_hiByte_loByte_add_one (w : Word) :
    joinBytes (hiByte w) (loByte w + 1) = if w.toNat % 256 = 255 then BitVec.ofNat 16 (w.toNat - 255) else w + 1 := by
  have hw := w.isLt
  apply BitVec.eq_of_toNat_eq
  rw [joinBytes_toNat, BitVec.toNat_add, hiByte_toNat, loByte_toNat]
  split <;> bv_omega

namespace Machine

/-- In RAM a word written to two addresses, high byte first, is the word read from them (20_memory.md R65). -/
theorem Platform.readWord_write_write {m : Platform} (h : m.ram.wf = true) {lo hi : Word} (hlo : m.hooked lo = false)
    (hhi : m.hooked hi = false) (hne : hi ≠ lo) (w : Word) :
    (((m.write hi (hiByte w)).write lo (loByte w)).readWord lo hi).value = w := by
  have hread_lo := read_write_same (write_wf h hi (hiByte w)) (a := lo) (by simpa using hlo) (loByte w)
  have hread_hi : (((m.write hi (hiByte w)).write lo (loByte w)).read hi).1 = hiByte w := by
    rw [read_write_ne (write_wf h _ _) (by simpa using hhi) hne, read_write_same h hhi]
  simp only [readWord, readByte, hread_lo, hread_hi, joinBytes_hi_lo]

namespace State

variable (s : State)

theorem sub_two_add_one (b : Byte) : b - 2 + 1 = b - 1 := by bv_omega

/-- A word pushed high byte first: two writes, SP two lower (47_stack_flags_system.md R258). -/
theorem push_push_eq (h l : Byte) :
    (s.push h).push l =
      { s with
        sp := s.sp - 2
        mem := (s.mem.write (stackAddr s.sp) h).write (stackAddr (s.sp - 1)) l
        bus := s.bus ++ [.write (stackAddr s.sp) h, .write (stackAddr (s.sp - 1)) l] } := by
  simp only [push_eq, note_sp, setSP_sp, sub_one_sub_one, setSP_mem, note_mem, setMem_mem]
  simp only [note, setSP, setMem, List.append_assoc, List.cons_append, List.nil_append]

/-- A word pulled low byte first: two reads, SP two higher (47_stack_flags_system.md R259). -/
theorem pull_pull_eq :
    let w := s.mem.readWord (stackAddr (s.sp + 1)) (stackAddr (s.sp + 2))
    joinBytes s.pull.2.pull.1 s.pull.1 = w.value ∧
      s.pull.2.pull.2 = { s with sp := s.sp + 2, mem := w.mem, bus := s.bus ++ w.accesses } := by
  rw [← add_one_add_one]
  simp [pull_eq, Platform.readWord, Platform.readByte, setSP, setMem, note]

/-- The target of a branch over the integers (46_control_flow.md R252). -/
theorem relativeTarget_eq (off : Byte) :
    s.relativeTarget off = BitVec.ofInt 16 ((s.pc.toNat : Int) + 2 + off.toInt) := by
  rw [BitVec.ofInt_add, BitVec.ofInt_add, BitVec.ofInt_natCast, BitVec.ofNat_toNat, BitVec.setWidth_eq]
  rfl

end State

/-- Settles O42: the indirect jump loads the word of `Read16Bug`, whose second address stays in the page. -/
theorem jumpsLoadPC : Obligations.JumpsLoadPC := by
  intro w s next target
  refine ⟨rfl, ?_⟩
  simp only [exec, execJmpInd, State.read16Bug_eq, joinBytes_hiByte_loByte_add_one]
  rfl

/-- Settles O43: the two pushes of the return address, then the jump. -/
theorem callPushesReturnAddressMinusOne : Obligations.CallPushesReturnAddressMinusOne := by
  intro target s ra
  simp only [exec, execJsr, State.push_push_eq]
  rfl

/-- Settles O44: two pulls are one word read at the two slots above SP. -/
theorem returnPullsLowThenHigh : Obligations.ReturnPullsLowThenHigh := by
  intro s lo hi w
  obtain ⟨hvalue, hstate⟩ := s.pull_pull_eq
  simp only [exec, execRts, hvalue, hstate]
  rfl

/-- Settles O45: every branch is the common rule with its own condition. -/
theorem branchesFollowTheirFlag : Obligations.BranchesFollowTheirFlag := by
  intro off s taken go
  have hgo (cond : Bool) : s.branch cond off = go cond := by
    rw [State.branch_eq, State.relativeTarget_eq]
    rfl
  refine ⟨?bcc, ?bcs, ?bne, ?beq, ?bpl, ?bmi, ?bvc, ?bvs⟩
  case bcc | bcs | bne | beq | bpl | bmi | bvc | bvs =>
    exact congrArg Host.Outcome.next (hgo _)

/-- Settles O58: the two slots JSR wrote are the two RTS reads, so the word pulled is PC + 2. -/
theorem returnComesBackAfterTheCall : Obligations.ReturnComesBackAfterTheCall := by
  intro s t target hwf hhi hlo hcall
  rw [callPushesReturnAddressMinusOne target s] at hcall
  cases hcall
  refine ⟨_, returnPullsLowThenHigh _, ?_, ?_, rfl, rfl, rfl, rfl⟩
  · have hslots : State.stackAddr s.sp ≠ State.stackAddr (s.sp - 1) := by
      rw [Ne, State.stackAddr_inj]
      bv_omega
    have hpulled := Platform.readWord_write_write hwf hlo hhi hslots (s.pc + 2)
    dsimp only
    rw [State.sub_two_add_one, BitVec.sub_add_cancel, hpulled]
    exact BitVec.add_assoc s.pc 2 1
  · exact BitVec.sub_add_cancel s.sp 2

end Machine

end Sys2Proof
end

section
/-! PROOFS. Stack and flag instructions, BRK and RTI: the exact next state of each, and that a pull gives back what was
pushed (47_stack_flags_system.md R258 to R274). -/

namespace Sys2Proof.Machine

namespace Platform

variable {m : Platform}

/-- In RAM a byte written is the byte the array then holds. -/
theorem write_ram_read_same (h : m.ram.wf = true) {a : Word} (ha : m.hooked a = false) (v : Byte) :
    (m.write a v).ram.read a.toNat = v := by
  rw [write_of_unhooked m ha, Memory.read_write_same h]

theorem readByte_value_of_unhooked {a : Word} (ha : m.hooked a = false) :
    (m.readByte a).value = m.ram.read a.toNat := by
  rw [readByte, read_of_unhooked m ha]

/-- A word read from RAM is the two bytes the array holds. -/
theorem readWord_value_of_unhooked {lo hi : Word} (hlo : m.hooked lo = false) (hhi : m.hooked hi = false) :
    (m.readWord lo hi).value = joinBytes (m.ram.read hi.toNat) (m.ram.read lo.toNat) := by
  simp only [readWord, readByte, read_of_unhooked m hlo, read_of_unhooked m hhi]

@[simp] theorem hooked_readByte (a b : Word) : (m.readByte a).mem.hooked b = m.hooked b := hooked_read m a b

end Platform

/-- Pulling back the status PHP and BRK push changes no flag: bits 4 and 5, the forced ones, are not taken from it
(10_state.md R38; 47_stack_flags_system.md R261, R263). -/
theorem unpackPulled_pack_or_break_bits (f : Flags) : f.unpackPulled (f.pack ||| 0x30) = f := by
  have hor : Flags.unpack (f.pack ||| 0x30) = { Flags.unpack f.pack with b := true } := by
    simp [Flags.unpack]
  rw [Flags.unpackPulled, hor, unpack_pack]

namespace State

variable (s : State)

theorem sub_three_add_one (b : Byte) : b - 3 + 1 = b - 2 := by bv_omega
theorem sub_three_add_two (b : Byte) : b - 3 + 2 = b - 1 := by bv_omega

theorem enterTrap_sp (ra : Word) (status : Byte) (vector : Word) : (s.enterTrap ra status vector).sp = s.sp - 3 := by
  rw [enterTrap_eq]

theorem returnFromTrap_sp : s.returnFromTrap.sp = s.sp + 3 := by
  rw [returnFromTrap_eq]

theorem hooked_enterTrap (ra : Word) (status : Byte) (vector a : Word) :
    (s.enterTrap ra status vector).mem.hooked a = s.mem.hooked a := by
  simp only [Platform.hooked, (BusFrame.enterTrap s ra status vector).hooks]

/-- In RAM a pull answers the byte just pushed and restores SP (47_stack_flags_system.md R274). -/
theorem pull_push (hwf : s.mem.ram.wf = true) (hram : s.mem.hooked (stackAddr s.sp) = false) (v : Byte) :
    (s.push v).pull = (v, ((s.push v).setSP s.sp).note [.read (stackAddr s.sp) v]) := by
  rw [pull_eq, push_sp, BitVec.sub_add_cancel, push_mem, Platform.readByte, Platform.read_write_same hwf hram]
  rfl

theorem stackAddr_toNat_ne {p q : Byte} (h : p ≠ q) : (stackAddr p).toNat ≠ (stackAddr q).toNat :=
  mt (fun e => stackAddr_inj.1 (BitVec.eq_of_toNat_eq e)) h

/-- With its three stack slots in RAM, what trap entry leaves in them; reading the vector changes no RAM
(47_stack_flags_system.md R272; 60_exceptions.md R308). -/
theorem enterTrap_stack (hwf : s.mem.ram.wf = true) (hhi : s.mem.hooked (stackAddr s.sp) = false)
    (hlo : s.mem.hooked (stackAddr (s.sp - 1)) = false) (hst : s.mem.hooked (stackAddr (s.sp - 2)) = false)
    (ra : Word) (status : Byte) (vector : Word) :
    let ram := (s.enterTrap ra status vector).mem.ram
    ram.read (stackAddr s.sp).toNat = hiByte ra ∧ ram.read (stackAddr (s.sp - 1)).toNat = loByte ra ∧
      ram.read (stackAddr (s.sp - 2)).toNat = status := by
  have hwf1 := Platform.write_wf hwf (stackAddr s.sp) (hiByte ra)
  have hwf2 := Platform.write_wf hwf1 (stackAddr (s.sp - 1)) (loByte ra)
  simp only [enterTrap_eq, Platform.readWord_ram]
  refine ⟨?_, ?_, ?_⟩
  · rw [Platform.write_ram_read_ne hwf2 _ (stackAddr_toNat_ne (by bv_omega)),
      Platform.write_ram_read_ne hwf1 _ (stackAddr_toNat_ne (by bv_omega)), Platform.write_ram_read_same hwf hhi]
  · rw [Platform.write_ram_read_ne hwf2 _ (stackAddr_toNat_ne (by bv_omega)),
      Platform.write_ram_read_same hwf1 (by simpa using hlo)]
  · rw [Platform.write_ram_read_same hwf2 (by simpa using hst)]

/-- With its three stack slots in RAM, what the return from a trap takes from them (60_exceptions.md R312). -/
theorem returnFromTrap_of_unhooked (hst : s.mem.hooked (stackAddr (s.sp + 1)) = false)
    (hlo : s.mem.hooked (stackAddr (s.sp + 2)) = false) (hhi : s.mem.hooked (stackAddr (s.sp + 3)) = false) :
    s.returnFromTrap.flags = s.flags.unpackPulled (s.mem.ram.read (stackAddr (s.sp + 1)).toNat) ∧
      s.returnFromTrap.pc = joinBytes (s.mem.ram.read (stackAddr (s.sp + 3)).toNat)
        (s.mem.ram.read (stackAddr (s.sp + 2)).toNat) := by
  rw [returnFromTrap_eq]
  dsimp only
  rw [Platform.readByte_value_of_unhooked hst, Platform.readWord_value_of_unhooked (by simpa using hlo)
    (by simpa using hhi), Platform.readByte_ram]
  exact ⟨rfl, rfl⟩

/-- With its three stack slots in RAM a trap returns to the address it pushed, with SP of before and the flags its
status byte pulls to; the vector may be a device's (60_exceptions.md R308, R312). -/
theorem returnFromTrap_enterTrap (hwf : s.mem.ram.wf = true) (hhi : s.mem.hooked (stackAddr s.sp) = false)
    (hlo : s.mem.hooked (stackAddr (s.sp - 1)) = false) (hst : s.mem.hooked (stackAddr (s.sp - 2)) = false)
    (ra : Word) (status : Byte) (vector : Word) :
    let u := (s.enterTrap ra status vector).returnFromTrap
    u.pc = ra ∧ u.sp = s.sp ∧ u.flags = s.flags.unpackPulled status := by
  obtain ⟨read_hi, read_lo, read_st⟩ := s.enterTrap_stack hwf hhi hlo hst ra status vector
  have hreturn := (s.enterTrap ra status vector).returnFromTrap_of_unhooked
  simp only [enterTrap_sp, sub_three_add_one, sub_three_add_two, BitVec.sub_add_cancel, hooked_enterTrap, read_hi,
    read_lo, read_st, joinBytes_hi_lo] at hreturn
  obtain ⟨hflags, hpc⟩ := hreturn hst hlo hhi
  refine ⟨hpc, ?_, ?_⟩
  · rw [returnFromTrap_sp, enterTrap_sp, BitVec.sub_add_cancel]
  · rw [hflags, enterTrap_eq]
    rfl

end State

/-- Two instructions that do not write A, X or Y leave them as before (10_state.md R21 to R23). -/
theorem exec_exec_keeps_axy {i j : Instr} {s t u : State} (hi : exec i s = .next t) (hj : exec j t = .next u)
    (hwi : i.writesA = false ∧ i.writesX = false ∧ i.writesY = false)
    (hwj : j.writesA = false ∧ j.writesX = false ∧ j.writesY = false) : u.a = s.a ∧ u.x = s.x ∧ u.y = s.y := by
  obtain ⟨ha, hx, hy, -⟩ := (exec_frame hi).registers
  obtain ⟨ha', hx', hy', -⟩ := (exec_frame hj).registers
  obtain ⟨hia, hix, hiy⟩ := hwi
  obtain ⟨hja, hjx, hjy⟩ := hwj
  exact ⟨(ha' hja).trans (ha hia), (hx' hjx).trans (hx hix), (hy' hjy).trans (hy hiy)⟩

/-- Settles O57: the push writes the one slot the pull reads, and the pull writes nothing. -/
theorem pullReturnsWhatWasPushed : Obligations.PullReturnsWhatWasPushed := by
  intro s v hwf hram
  rw [s.pull_push hwf hram v]
  exact ⟨rfl, rfl, fun addr hne => Platform.write_ram_read_ne hwf v (by rwa [State.stackAddr_toNat])⟩

/-- Settles O60: the flags pushed pull back to themselves. -/
theorem pullStatusAfterPushStatus : Obligations.PullStatusAfterPushStatus := by
  intro s t hwf hram hphp
  obtain ⟨hvalue, hsp, -⟩ := pullReturnsWhatWasPushed s s.statusForBreak hwf hram
  have hflags : s.flags.unpackPulled (s.push s.statusForBreak).pull.1 = s.flags := by
    rw [hvalue]
    exact unpackPulled_pack_or_break_bits s.flags
  obtain ⟨u, hplp⟩ := exec_answers .plp t
  obtain ⟨ha, hx, hy⟩ := exec_exec_keeps_axy hphp hplp ⟨rfl, rfl, rfl⟩ ⟨rfl, rfl, rfl⟩
  obtain rfl := Host.Outcome.next.inj hphp
  obtain rfl := Host.Outcome.next.inj hplp
  exact ⟨_, rfl, hflags, hsp, BitVec.add_assoc s.pc 1 1, ha, hx, hy⟩

/-- Settles O59: BRK enters the trap and RTI returns from it, with the status pushed pulling back to the flags. -/
theorem returnFromBreakRestoresState : Obligations.ReturnFromBreakRestoresState := by
  intro s t hwf hhi hlo hst hbrk
  obtain ⟨hpc, hsp, hflags⟩ := s.returnFromTrap_enterTrap hwf hhi hlo hst (s.pc + 2) s.statusForBreak 0xFFFE
  obtain ⟨u, hrti⟩ := exec_answers .rti t
  obtain ⟨ha, hx, hy⟩ := exec_exec_keeps_axy hbrk hrti ⟨rfl, rfl, rfl⟩ ⟨rfl, rfl, rfl⟩
  obtain rfl := Host.Outcome.next.inj hbrk
  obtain rfl := Host.Outcome.next.inj hrti
  exact ⟨_, rfl, hpc, hsp, hflags.trans (unpackPulled_pack_or_break_bits s.flags), ha, hx, hy⟩

/-- Settles O46: one push or one pull, and what the instruction does with the byte. -/
theorem stackInstructions : Obligations.StackInstructions := by
  intro s top pushed b v pulled
  refine ⟨?pha, ?php, ?pla, ?plp⟩
  case pha | php =>
    simp only [exec, execPha, execPhp, State.push_eq]
    rfl
  case pla | plp =>
    simp only [exec, execPla, execPlp, State.pull_eq]
    rfl

/-- Settles O47: without an access, the exact next state of each is its definition in Machine/StackFlags.lean. -/
theorem flagInstructionsAndNop : Obligations.FlagInstructionsAndNop :=
  fun _ => ⟨rfl, rfl, rfl, rfl, rfl, rfl, rfl, rfl⟩

/-- Settles O48: BRK is trap entry through 0xFFFE with the return address PC + 2. -/
theorem breakEntersTheTrap : Obligations.BreakEntersTheTrap := by
  intro s ra m1 m2 m3 handler
  rw [exec, execBrk, State.enterTrap_eq]
  rfl

/-- Settles O49: RTI is the return from a trap. -/
theorem returnFromInterruptRestores : Obligations.ReturnFromInterruptRestores := by
  intro s a1 a2 a3 status b target
  rw [exec, execRti, State.returnFromTrap_eq]
  rfl

end Sys2Proof.Machine
end

section
/-! PROOFS. The composites on memory: the exact next state of each (48_illegal_composites.md R282 to R288). Each is the
read and write of a modification or a shift (`State.modifyOperand_eq`, `State.shiftOperand_eq`) followed by a register
half on the byte written. The three register halves are said here once, for whatever state the accesses leave. -/

namespace Sys2Proof.Machine

namespace State

variable (s : State)

theorem afterMoves_eq_with {α : Type} (w : Moved α) :
    s.afterMoves w = { s with mem := w.mem, bus := s.bus ++ w.accesses } := rfl

theorem setFlags_eq_with (f : Flags) : s.setFlags f = { s with flags := f } := rfl

/-- The register half of DCP, a compare (R282). -/
theorem applyCompare_advance (o : CompareResult) (n : Nat) :
    (s.applyCompare o).advance n =
      { s with flags := { s.flags with c := o.c, n := o.n, z := o.z }, pc := s.pc + BitVec.ofNat 16 n } := rfl

/-- The register half of ISB and RRA, a subtraction or addition (R283, R287). -/
theorem applyArith_advance (o : ArithResult) (n : Nat) :
    (s.applyArith o).advance n =
      { s with
        a := o.r, flags := { s.flags with c := o.c, v := o.v, n := o.n, z := o.z }
        pc := s.pc + BitVec.ofNat 16 n } := rfl

/-- The register half of SLO, RLA and SRE: A and the N and Z of it, C kept from the shift (R284 to R286). -/
theorem setA_setNZ_advance (r : Byte) (n : Nat) :
    ((s.setA r).setNZ r).advance n =
      { s with
        a := r, flags := { s.flags with n := r.getLsbD 7, z := decide (r = 0) }
        pc := s.pc + BitVec.ofNat 16 n } := rfl

end State

/-- Settles O50: after the one read and write of its operand DCP compares A with the byte written, and ISB subtracts it
with the carry of before. -/
theorem decrementCompareAndIncrementSubtract : Obligations.DecrementCompareAndIncrementSubtract := by
  intro op s
  refine ⟨?dcp, ?isb⟩
  case dcp =>
    simp only [exec, execDcp, State.modifyOperand_eq, State.applyCompare_advance, State.afterMoves_eq_with, aluDec_eq,
      aluCmp_eq]
  case isb =>
    simp only [exec, execIsb, State.modifyOperand_eq, State.applyArith_advance, State.afterMoves_eq_with, aluInc_eq]

/-- Settles O51: after the one read and write of its operand SLO, RLA and SRE combine the byte written with A, and RRA
adds it with the carry of its rotate. -/
theorem shiftAndCombineComposites : Obligations.ShiftAndCombineComposites := by
  intro op s
  refine ⟨?slo, ?rla, ?sre, ?rra⟩
  case slo | rla | sre =>
    simp only [exec, execSlo, execRla, execSre, State.shiftOperand_eq, State.setA_setNZ_advance,
      State.setFlags_eq_with, State.afterMoves_eq_with, aluAsl_eq, aluRol_eq, aluLsr_eq, aluOra, aluAnd, aluEor]
  case rra =>
    simp only [exec, execRra, State.shiftOperand_eq, State.applyArith_advance, State.setFlags_eq_with,
      State.afterMoves_eq_with, aluRor_eq]

end Sys2Proof.Machine
end

section
/-! PROOFS. What every call does with the samples of the input lines, interrupt entry (60_exceptions.md R305 to R311),
and the reset sequence (70_reset_and_hazards.md R331). -/

namespace Sys2Proof.Machine

namespace State

variable (s : State)

/-- An NMI is latched or rises at this call's sample (60_exceptions.md R306). -/
def nmiPending : Bool := s.nmiLatch || (s.lines.nmi && !s.nmiPrev)

/-- With interrupt inputs the call takes one sample of both lines. -/
theorem sampleLines_of_inputs (h : s.cfg.hasInterruptInputs = true) :
    s.sampleLines = { s with nmiLatch := s.nmiPending, nmiPrev := s.lines.nmi, inputs := s.inputs.tail } := by
  simp [sampleLines, h, nmiPending]

/-- The poll takes an NMI first, then an IRQ that is not masked (60_exceptions.md R307). -/
theorem beginTick_accepted (h : s.cfg.hasInterruptInputs = true) :
    s.beginTick.accepted s.lines =
      if s.nmiPending then some .nmi else if s.lines.irq && !s.flags.i then some .irq else none := by
  simp [accepted, h, sampleLines_of_inputs s h]

/-- With interrupt inputs an NMI is accepted exactly when it is pending. -/
theorem beginTick_accepted_eq_nmi_iff (h : s.cfg.hasInterruptInputs = true) :
    s.beginTick.accepted s.lines = some .nmi ↔ s.nmiPending = true := by
  rw [beginTick_accepted s h]
  cases s.nmiPending <;> simp

@[simp] theorem beginTick_statusForInterrupt : s.beginTick.statusForInterrupt = (s.p &&& 0xEF) ||| 0x20 := by
  simp [statusForInterrupt, p]

/-- An instruction's own bytes are read opcode byte first (20_memory.md R63). -/
theorem ownBytes_bus_frame {n : Nat} (h : n ≠ 0) :
    (s.afterMoves (s.mem.readByte s.pc)).BusFrame (s.afterMoves (s.ownBytes n)) := by
  obtain ⟨n, rfl⟩ := Nat.exists_eq_succ_of_ne_zero h
  rw [ownBytes, List.range_succ_eq_map, List.map_cons, BitVec.add_zero]
  exact ⟨⟨rfl, rfl, rfl, rfl, rfl, rfl, rfl, rfl⟩, _, (List.append_assoc ..).symm, Platform.replay_readAll ..⟩

/-- Everything `reset()` does (70_reset_and_hazards.md R331). -/
theorem resetCore_eq :
    let entry := s.mem.readWord 0xFFFC 0xFFFD
    s.resetCore =
      { s with
        sp := 0xFD, flags := Flags.afterReset, pc := entry.value, pendingCycles := 0, halted := false, started := true
        nmiLatch := if s.cfg.hasInterruptInputs then false else s.nmiLatch
        nmiPrev := if s.cfg.hasInterruptInputs then false else s.nmiPrev
        mem := entry.mem, bus := entry.accesses, result := none } := by
  rw [resetCore, read16_eq]
  rfl

end State

theorem row_length_ne_zero (row : Row) : row.length ≠ 0 := by
  rcases Mode.length_cases row.mode with h | h | h <;> simp [Row.length, h]

/-- Whatever the opcode, a call that reaches the fetch reads the byte at PC first; then it reads and writes as a program
may and either halts or banks its cycles (42_execution_engine.md R163, R165, R168). -/
theorem step_of_ready_cases {s : State} (h : s.Ready) :
    ∃ u, (s.beginTick.afterMoves (s.mem.readByte s.pc)).BusFrame u ∧
      (step s = .next u.haltUndecodable ∨ ∃ cycles, step s = .next (u.bankCycles cycles)) := by
  cases hr : lookupOpcode (s.byteAt s.pc) with
  | none => exact ⟨_, .refl _, .inl (step_of_undefined h hr)⟩
  | some row =>
    obtain ⟨u, hu⟩ := exec_answers (s.instrAtPC row) (s.beginTick.afterMoves (s.ownBytes row.length))
    have hbytes := s.beginTick.ownBytes_bus_frame (row_length_ne_zero row)
    rw [State.beginTick_mem, State.beginTick_pc, State.beginTick_ownBytes] at hbytes
    exact ⟨u, hbytes.trans (exec_frame hu).bus, .inr ⟨row.cycles, step_of_row h hr hu⟩⟩

/-- What a call that reaches the fetch answers: it reports a result, the sampled lines stay as they are, and its first
access is the read of the opcode byte. -/
theorem step_of_ready_answers {s : State} (h : s.Ready) :
    ∃ t, step s = .next t ∧ (∃ r, t.result = some r) ∧
      (t.nmiPrev = s.sampleLines.nmiPrev ∧ t.inputs = s.sampleLines.inputs ∧ t.nmiLatch = s.sampleLines.nmiLatch) ∧
      ∃ others, t.bus = .read s.pc (s.byteAt s.pc) :: others := by
  obtain ⟨u, ⟨⟨-, -, -, hlatch, hprev, -, hinputs, -⟩, others, hbus, -⟩, hstep⟩ := step_of_ready_cases h
  obtain hstep | ⟨cycles, hstep⟩ := hstep <;>
    exact ⟨_, hstep, ⟨_, rfl⟩, ⟨hprev, hinputs, hlatch⟩, others, hbus⟩

/-- In Idle-fetch away from `HALT_ADDR` an accepted interrupt is entered: three pushes, I set, PC from the vector, six
cycles banked, and an NMI clears its latch (60_exceptions.md R307, R308). -/
theorem step_of_interrupt {s : State} {k : Interrupt} (hs : s.started = true) (hp : s.pendingCycles = 0)
    (hh : s.halted = false) (ha : s.cfg.haltAddr ≠ some s.pc) (hk : s.beginTick.accepted s.lines = some k) :
    let status := (s.p &&& 0xEF) ||| 0x20
    let m := ((s.mem.write (State.stackAddr s.sp) (hiByte s.pc)).write (State.stackAddr (s.sp - 1)) (loByte s.pc)).write
      (State.stackAddr (s.sp - 2)) status
    let handler := m.readWord k.vector (k.vector + 1)
    step s = .next { s.sampleLines with
      mem := handler.mem, sp := s.sp - 3, flags := { s.flags with i := true }
      nmiLatch := if k = .nmi then false else s.sampleLines.nmiLatch
      pc := handler.value, pendingCycles := 6, result := some (.ran 7)
      bus := [.write (State.stackAddr s.sp) (hiByte s.pc), .write (State.stackAddr (s.sp - 1)) (loByte s.pc),
        .write (State.stackAddr (s.sp - 2)) status] ++ handler.accesses } := by
  have hstep : step s = .next ((s.beginTick.enterInterrupt k).bankCycles 7) := by
    simp [step, hs, hp, hh, ha, hk]
  rw [hstep, State.enterInterrupt_eq, State.enterTrap_eq]
  simp only [State.beginTick_mem, State.beginTick_sp, State.beginTick_pc, State.beginTick_flags,
    State.beginTick_statusForInterrupt]
  rfl

/-- Settles O12, by the cases of a call. -/
theorem stepAlwaysAnswersAState : Obligations.StepAlwaysAnswersAState := by
  intro s
  cases hs : s.started with
  | false => exact ⟨_, _, step_of_not_started hs, rfl⟩
  | true =>
    rcases step_cases hs with ⟨-, h⟩ | ⟨-, -, h⟩ | ⟨-, -, -, h⟩ | ⟨-, -, -, k, -, h⟩ | ⟨hready, -⟩
    · exact ⟨_, _, h, rfl⟩
    · exact ⟨_, _, h, rfl⟩
    · exact ⟨_, _, h, rfl⟩
    · exact ⟨_, _, h, rfl⟩
    · obtain ⟨t, hstep, ⟨r, hr⟩, -⟩ := step_of_ready_answers hready
      exact ⟨t, r, hstep, hr⟩

/-- The call is an NMI entry: in Idle-fetch, away from `HALT_ADDR`, an NMI is accepted (60_exceptions.md R307). -/
def State.EntersNmi (s : State) : Prop :=
  s.pendingCycles = 0 ∧ s.halted = false ∧ s.cfg.haltAddr ≠ some s.pc ∧ s.beginTick.accepted s.lines = some .nmi

/-- After `reset()` every call leaves the lines as sampled, but for the latch an NMI entry clears. -/
theorem step_samples_lines {s : State} (hs : s.started = true) :
    ∃ t, step s = .next t ∧ t.nmiPrev = s.sampleLines.nmiPrev ∧ t.inputs = s.sampleLines.inputs ∧
      (s.EntersNmi → t.nmiLatch = false) ∧ (¬ s.EntersNmi → t.nmiLatch = s.sampleLines.nmiLatch) := by
  rcases step_cases hs with ⟨hp, h⟩ | ⟨-, hh, h⟩ | ⟨-, -, ha, h⟩ | ⟨hp, hh, ha, k, hk, -⟩ | ⟨hready, -⟩
  · exact ⟨_, h, rfl, rfl, fun ⟨hp0, _⟩ => absurd hp0 hp.ne', fun _ => rfl⟩
  · exact ⟨_, h, rfl, rfl, fun ⟨_, hh', _⟩ => absurd hh (ne_true_of_eq_false hh'), fun _ => rfl⟩
  · exact ⟨_, h, rfl, rfl, fun ⟨_, _, ha', _⟩ => absurd ha ha', fun _ => rfl⟩
  · refine ⟨_, step_of_interrupt hs hp hh ha hk, rfl, rfl, fun ⟨_, _, _, hnmi⟩ => ?_, fun hne => ?_⟩
    · exact if_pos (Option.some.inj (hk.symm.trans hnmi))
    · exact if_neg fun e => hne ⟨hp, hh, ha, hk.trans (congrArg some e)⟩
  · obtain ⟨t, hstep, -, ⟨hprev, hinputs, hlatch⟩, -⟩ := step_of_ready_answers hready
    obtain ⟨-, -, -, -, hnone⟩ := hready
    refine ⟨t, hstep, hprev, hinputs, fun ⟨_, _, _, hnmi⟩ => ?_, fun _ => hlatch⟩
    cases hnone.symm.trans hnmi

/-- Settles O14: the lines are as sampled, and an NMI entry is a call that accepts the NMI. -/
theorem linesAreSampledOnEveryCall : Obligations.LinesAreSampledOnEveryCall := by
  intro s hs pending nmiEntry
  obtain ⟨t, hstep, hprev, hinputs, hentry, hother⟩ := step_samples_lines hs
  refine ⟨t, hstep, fun hin => ?inputs, fun hin => ?none⟩
  case inputs =>
    rw [s.sampleLines_of_inputs hin] at hprev hinputs hother
    have hiff : s.EntersNmi ↔ nmiEntry := by
      rw [State.EntersNmi, s.beginTick_accepted_eq_nmi_iff hin]
      rfl
    refine ⟨hprev, hinputs, ?_⟩
    split
    · next h => exact hentry (hiff.mpr h)
    · next h => exact hother (mt hiff.mp h)
  case none =>
    have hnone := s.beginTick.accepted_of_no_inputs (by rwa [s.beginTick_cfg]) s.lines
    have hno : ¬ s.EntersNmi := fun ⟨_, _, _, hnmi⟩ => nomatch hnone.symm.trans hnmi
    rw [s.sampleLines_of_no_inputs hin] at hprev hinputs hother
    exact ⟨hprev, hinputs, hother hno⟩

/-- Settles O15: a pending NMI is the interrupt accepted. -/
theorem nmiEntryPushesAndVectors : Obligations.NmiEntryPushesAndVectors := by
  intro s hs hp hh ha hin hnmi
  have hk := (s.beginTick_accepted_eq_nmi_iff hin).mpr hnmi
  rw [step_of_interrupt hs hp hh ha hk]
  rfl

/-- Settles O16: with no NMI pending an unmasked IRQ is the interrupt accepted. -/
theorem irqEntryPushesAndVectors : Obligations.IrqEntryPushesAndVectors := by
  intro s hs hp hh ha hin hnmi hirq hi
  have hk : s.beginTick.accepted s.lines = some .irq := by
    rw [s.beginTick_accepted hin, State.nmiPending, hnmi, hirq, hi]
    rfl
  rw [step_of_interrupt hs hp hh ha hk]
  rfl

/-- Settles O17: with no interrupt accepted the call reaches the fetch. -/
theorem maskedOrAbsentIrqFetches : Obligations.MaskedOrAbsentIrqFetches := by
  intro s hs hp hh ha hin hnmi hirq
  have hnone : s.beginTick.accepted s.lines = none := by
    rw [s.beginTick_accepted hin, State.nmiPending, hnmi]
    rcases hirq with h | h <;> simp [h]
  obtain ⟨t, hstep, -, -, others, hbus⟩ := step_of_ready_answers ⟨hs, hp, hh, ha, hnone⟩
  exact ⟨t, others, hstep, hbus⟩

/-- Settles O21: the two reads of the vector leave the byte array as it is. -/
theorem resetKeepsTheInvariant : Obligations.ResetKeepsTheInvariant := by
  intro s hwf
  rw [State.resetCore_eq]
  exact ⟨by rwa [Platform.readWord_ram], Nat.zero_le 7, fun _ => rfl⟩

/-- Settles O23, from the exact state `reset()` gives. -/
theorem resetSequence : Obligations.ResetSequence := by
  obtain ⟨-, -, hpack⟩ := packedStatusLayout
  intro s entry
  rw [State.resetCore_eq]
  exact ⟨rfl, rfl, hpack, rfl, rfl, rfl, rfl, rfl, rfl, rfl, rfl, Platform.readWord_ram .., Platform.readWord_hooks ..,
    rfl, fun hin => ⟨if_pos hin, if_pos hin⟩⟩

end Sys2Proof.Machine
end
